-- ==== Sys2Proof/Word.lean ====
section
/-! DEFINITION. The words of the part: bytes, 16-bit words, 7-bit bus addresses, and the numbers of slots, blocks and buffers. -/

namespace Sys2Proof

/-- A byte of a frame, of the Register Store, of a message or of the served bus. -/
abbrev Byte := BitVec 8

/-- A two-byte field: a tag, or one of the seven counters (R4, R180). -/
abbrev Word16 := BitVec 16

/-- A served bus address, or an address mask: always seven bits (00_scope.md, Bus addresses). -/
abbrev Address := BitVec 7

/-- The number of an endpoint record, 0 to 47 (R1). -/
abbrev Slot := Fin 48

/-- The number of a block of the Register Store, 0 to 127 (R44). -/
abbrev BlockNo := Fin 128

/-- The number of a buffer of the Message Pool, 0 to 63 (R98). -/
abbrev BufferNo := Fin 64

end Sys2Proof
end

