-- ==== Sys2Proof/Syntax.lean ====
section
/-! DEFINITION. The commands and events the part takes: one constructor per row of spec/opcode_table.json. The 23 steps of the Command Engine have no operand of their own: theirs is the frame at the head of the Command Inbox (R175, R189; log 1). -/

namespace Sys2Proof

/-- An edge of SCL (R161). -/
inductive Edge where
  | rising
  | falling
deriving DecidableEq, Repr

/-- What can happen to the part: every step of the table, each whole and indivisible. -/
inductive Instr where
  /-- IDENTIFY (R183): the Command Engine takes a frame with CODE 0x01. -/
  | identify
  /-- STATUS (R184): CODE 0x02. -/
  | status
  /-- RESET (R182): CODE 0x03. -/
  | reset
  /-- CREDIT (R144): CODE 0x04. -/
  | credit
  /-- ATTACH (R92): CODE 0x05. -/
  | attach
  /-- DETACH (R93): CODE 0x06. -/
  | detach
  /-- HOLDLIMIT (R120): CODE 0x07. -/
  | holdLimit
  /-- STALLLIMIT (R160): CODE 0x08. -/
  | stallLimit
  /-- INSTALL (R16): CODE 0x10. -/
  | install
  /-- ACTIVATE (R18): CODE 0x11. -/
  | activate
  /-- QUIESCE (R19): CODE 0x12. -/
  | quiesce
  /-- RESUME (R20): CODE 0x13. -/
  | resume
  /-- RETIRE (R21): CODE 0x14. -/
  | retire
  /-- QUERY (R27): CODE 0x15. -/
  | query
  /-- LOOKUP (R43): CODE 0x16. -/
  | lookup
  /-- TOUCH (R154): CODE 0x17. -/
  | touch
  /-- LOAD (R52): CODE 0x20. -/
  | load
  /-- READ (R55): CODE 0x21. -/
  | read
  /-- FILL (R122): CODE 0x22. -/
  | fill
  /-- POST (R102): CODE 0x30. -/
  | post
  /-- FLUSH (R110): CODE 0x31. -/
  | flush
  /-- UNKNOWN_COMMAND (R188): a frame whose CODE is no command code. -/
  | unknownCommand
  /-- DUPLICATE (R176): a frame whose SEQ is the cached one. -/
  | duplicate
  /-- FRAME_RECEIVED (R172): the character that stands at a frame's CRC byte has been received. -/
  | frameReceived (crc : Byte)
  /-- FRAMING_ERROR (R169): LRX rises after a low stop bit, before 20 bit periods. -/
  | framingError
  /-- GAP_TIMEOUT (R171): 5 ms without a start bit inside a frame. -/
  | gapTimeout
  /-- LINK_RESET (R174): LRX has been low for 20 bit periods. -/
  | linkReset
  /-- BREAK_END (R174): LRX rises after a break. -/
  | breakEnd
  /-- FRAME_START (R178): the arbiter decides on the idle line. -/
  | frameStart
  /-- FRAME_SENT (R178): the last byte of the frame on LTX has been sent. -/
  | frameSent
  /-- HARDWARE_RESET (R181): RSTn falls, or VDD begins to rise. -/
  | hardwareReset
  /-- HARDWARE_RESET_END (R181): the reset ends, with the levels of the two straps and of LRX. -/
  | hardwareResetEnd (bsel1 bsel0 lrxHigh : Bool)
  /-- START_CONDITION (R73). -/
  | startCondition
  /-- STOP_CONDITION (R74). -/
  | stopCondition
  /-- ADDRESS_BYTE (R36): the eighth bit of an address byte; seven address bits, then the direction bit (R68). -/
  | addressByte (value : Byte)
  /-- POINTER_BYTE (R84): the eighth bit of the first data byte of a bank write. -/
  | pointerByte (value : Byte)
  /-- BANK_WRITE_BYTE (R86): the eighth bit of a later data byte of a bank write. -/
  | bankWriteByte (value : Byte)
  /-- MAILBOX_WRITE_BYTE (R91): the eighth bit of a data byte of a mailbox write. -/
  | mailboxWriteByte (value : Byte)
  /-- READ_BYTE_DRIVE (R80): the part begins to drive the next read byte. -/
  | readByteDrive
  /-- READ_BYTE_ACKNOWLEDGE (R81): the rising edge of the controller's acknowledge clock; `ack` is SDA low. -/
  | readByteAcknowledge (ack : Bool)
  /-- HOLD_EXPIRY (R127): the hold timer reaches the limit it took. -/
  | holdExpiry
  /-- ABANDONMENT (R163): the stall timer reaches the limit it took. -/
  | abandonment
  /-- FRESHNESS_TICK (R152): 50 ms of one endpoint's running time end. -/
  | freshnessTick (slot : Nat)
  /-- FRESHNESS_EXPIRY (R155): one endpoint's count reaches 0. -/
  | freshnessExpiry (slot : Nat)
  /-- CHARACTER_RECEIVED (R170): a character with a high stop bit. -/
  | characterReceived (value : Byte)
  /-- SCL_EDGE (R161). -/
  | sclEdge (edge : Edge)
deriving DecidableEq, Repr

end Sys2Proof
end

