-- ==== Sys2Proof/Decode.lean ====
section
/-! DEFINITION. The command a word spells. No row of spec/opcode_table.json gives bits (every row's "fields" is empty and none has "fixed"), so no word spells a command (log 15). The frames of the management link are not words of the table: they come in as characters (R170) and are read in Machine/Operands.lean. -/

namespace Sys2Proof

/-- The command spelt by the `nbits` bits `w` of the table: none, for the table gives no row any bits. -/
def decodeTableWord (_nbits _w : Nat) : Option Instr := none

end Sys2Proof
end

