-- ==== Sys2Proof/Config.lean ====
section
/-! DEFINITION. What the part fixes: its capacities, its limits after a hardware reset and its identity. The spec leaves no value to the implementation, so there is no free value here (log 16). -/

namespace Sys2Proof.Config

/-- Entries of the Update Hold (R57). -/
abbrev updateHoldEntries : Nat := 4

/-- Frames of the Command Inbox (R173). -/
abbrev inboxEntries : Nat := 4

/-- Responses of the Response Queue (R177). -/
abbrev responseEntries : Nat := 4

/-- Places of the Notice Queue, completed notices and the reservation together (R135, R136). -/
abbrev noticeEntries : Nat := 32

/-- Places of the Notice Queue that data notices and the reservation may take (R136). -/
abbrev dataEntries : Nat := 24

/-- Largest value of the credit counter (R143). -/
abbrev creditMax : Nat := 16

/-- Largest number of bytes one bus write collects, and of one message (R75, R98). -/
abbrev messageBytes : Nat := 32

/-- Bytes of one block of the Register Store (R44). -/
abbrev blockBytes : Nat := 16

/-- Bytes of the whole Register Store (R44). -/
abbrev storeBytes : Nat := 2048

/-- Largest number of data bytes of LOAD, FILL and READ (R51, R55, R122). -/
abbrev transferBytes : Nat := 48

/-- Hold limit after a hardware reset, in milliseconds (R120). -/
abbrev holdLimitReset : Byte := 10

/-- Stall limit after a hardware reset, in units of 5 ms (R160). -/
abbrev stallLimitReset : Byte := 8

/-- Largest stall limit, in units of 5 ms (R160). -/
abbrev stallLimitMax : Nat := 50

/-- The value of a read byte past the end of a window or of a message (R80, R105). -/
abbrev padByte : Byte := 0xFF

/-- The byte that opens every frame (R186). -/
abbrev syncByte : Byte := 0xB7

/-- The polynomial of the frame CRC without its x^8 term (R186). -/
abbrev crcPolynomial : Byte := 0x07

/-- The identity that IDENTIFY and every HELLO carry: family code low byte first, revision, slots,
blocks, buffers, Notice Queue entries (R183, R190). -/
def identity : List Byte := [0x48, 0x07, 0x10, 48, 128, 64, 32]

end Sys2Proof.Config
end

