-- ==== Sys2Proof/Machine/State.lean ====
section
/-! DEFINITION. The state of the part as plain data: every record, byte, buffer, queue, counter, mode and timer the spec gives it, the queue of waiting commands, and the values after a hardware reset. Outputs that the spec makes a function of this state (READY, ATTN, the LTX bytes) are computed from it in Machine/Flags.lean. -/

namespace Sys2Proof.Machine

/-- Lifecycle state of a record that is not FREE (R2, R9). A FREE slot holds no record. -/
inductive EndpointState where
  | staged
  | live
  | quiesced
  | retiring
deriving DecidableEq, Repr

/-- What a bus write to a bank does with its data bytes (R6). -/
inductive WritePolicy where
  | deny
  | apply
  | forward
deriving DecidableEq, Repr

/-- Whether a stale endpoint still answers (R2). -/
inductive StalePolicy where
  | answer
  | refuse
deriving DecidableEq, Repr

/-- The fields of a BANK (R6). -/
structure Bank where
  size : Nat
  fill : Byte
  policy : WritePolicy
  fetchOnRead : Bool
  blocks : List BlockNo
  pointer : Nat
deriving DecidableEq, Repr

/-- The fields of a MAILBOX (R7); the queue holds buffer numbers, oldest first. -/
structure Mailbox where
  depth : Nat
  acceptInbound : Bool
  queue : List BufferNo
  headFlushed : Bool
deriving DecidableEq, Repr

/-- The kind of an endpoint with the fields of that kind (R2, R6, R7). -/
inductive Content where
  | bank (b : Bank)
  | mailbox (m : Mailbox)
deriving DecidableEq, Repr

/-- A record that is not FREE (R2). The specificity is a function of the mask (R3). -/
structure Record where
  state : EndpointState
  address : Address
  mask : Address
  tag : Option Word16
  interval : Byte
  remaining : Byte
  stale : Bool
  stalePolicy : StalePolicy
  content : Content
deriving DecidableEq, Repr

/-- The Register Store: (address, byte) cells in canonical form, addresses rising, no cell holding the
reset value 0 (R44). -/
abbrev Memory := List Host.Cell

/-- One entry of the Update Hold: an accepted LOAD, or a FILL treated as one, kept whole (R57). -/
structure HeldLoad where
  slot : Slot
  offset : Nat
  data : List Byte
deriving DecidableEq, Repr

/-- The phases of the Bus Target Engine (R72 to R74). -/
inductive Phase where
  | detached
  | listen
  | address
  | hold
  | pointer
  | write
  | read
  | readEnd
  | ignore
  | recover
deriving DecidableEq, Repr

/-- Direction of a transaction (R75). -/
inductive Direction where
  | read
  | write
deriving DecidableEq, Repr

/-- Why an address is held (R119). -/
inductive HoldReason where
  | fetch
  | space
deriving DecidableEq, Repr

/-- The served message of the open mailbox read (R104): not fixed before the first data byte is
driven, then none (an empty read) or the buffer of the head. -/
inductive Served where
  | unfixed
  | empty
  | message (buffer : BufferNo)
deriving DecidableEq, Repr

/-- The transaction context (R75) with the Mailbox Unit's reference to the served message (R104).
The collected count is the length of `collected`. -/
structure Context where
  slot : Slot
  direction : Direction
  holdReason : Option HoldReason
  reserved : Bool
  startPointer : Nat
  refusing : Bool
  headServed : Nat
  collected : List Byte
  served : Served
deriving DecidableEq, Repr

/-- Where a driven read byte comes from (R80, R105). -/
inductive ReadSource where
  | window
  | length
  | message
  | pad
deriving DecidableEq, Repr

/-- How far an ACK of the part has come (R68): decided at the rise of the eighth clock and due at its fall,
driven while SCL is low, or driven with the acknowledge clock high; at that clock's fall SDA is released. -/
inductive AckStage where
  | due
  | driven
  | clocked
deriving DecidableEq, Repr

/-- What the part does on SDA (R68 to R70): nothing; the ACK of the byte just completed; its NACK, which
leaves the line released; or a read byte being driven, with the number of SCL edges since its first bit was
placed, which is even while SCL is low and 16 once the eighth clock has fallen. -/
inductive Sda where
  | released
  | ack (stage : AckStage)
  | nack
  | data (source : ReadSource) (value : Byte) (edges : Nat)
deriving DecidableEq, Repr

/-- The Bus Target Engine. A timer is `none` when stopped, and otherwise the limit it took when it was
started (R120, R160, R161; log 4). `stretching` says that the part drives SCL low: in a hold, from the fall of the
eighth clock of the held address byte to the hold's end (R69). -/
structure Engine where
  phase : Phase
  detaching : Bool
  ctx : Option Context
  holdTimer : Option Byte
  stallTimer : Option Byte
  stretching : Bool
  sda : Sda
deriving DecidableEq, Repr

/-- A buffer of the Message Pool: the length of the message it records, and its 32 bytes (R98). -/
structure Buffer where
  length : Nat
  bytes : List Byte
deriving DecidableEq, Repr

/-- The kind of a completed notice with the fields of that kind (R137). -/
inductive NoticeBody where
  | write (start : Nat) (data : List Byte)
  | mailboxIn (data : List Byte)
  | fetch (pointer : Nat)
  | holdExpired (reason : HoldReason)
  | stale
  | retired
  | busStall (phase : Phase)
deriving DecidableEq, Repr

/-- A completed notice (R137). -/
structure Notice where
  slot : Slot
  tag : Option Word16
  body : NoticeBody
deriving DecidableEq, Repr

/-- The Notice Queue (R135). -/
structure NoticeQueue where
  completed : List Notice
  reservation : Bool
  credit : Nat
  overflow : Bool
  seq : Byte
deriving DecidableEq, Repr

/-- SEQ, CODE and PAYLOAD of a frame; SYNC, LEN and CRC are computed (R186). -/
structure Frame where
  seq : Byte
  code : Byte
  payload : List Byte
deriving DecidableEq, Repr

/-- The Link Receiver (R170): hunting, expecting LEN, within a frame of LEN `len` with the bytes after
LEN received so far, or in a break. -/
inductive Receiver where
  | hunt
  | frameLen
  | frameBody (len : Nat) (bytes : List Byte)
  | lineBreak
deriving DecidableEq, Repr

/-- The cause a HELLO carries (R179). -/
inductive HelloCause where
  | hard
  | soft
  | link
deriving DecidableEq, Repr

/-- The frame on LTX and the source it came from; a notice frame also keeps the overflow flag copied
into it (R145, R146, R178). -/
inductive Sending where
  | hello (frame : Frame)
  | response (frame : Frame)
  | notice (frame : Frame) (overflow : Bool)
deriving DecidableEq, Repr

/-- The response cache with its valid mark set (R176). -/
structure CacheEntry where
  seq : Byte
  response : Frame
deriving DecidableEq, Repr

/-- The five parts of the management link: Link Receiver, Command Inbox, Command Engine's cache,
Response Queue, Link Transmitter with the pending HELLO (R170, R173, R176 to R179). -/
structure Link where
  receiver : Receiver
  inbox : List Frame
  responses : List Frame
  cache : Option CacheEntry
  sending : Option Sending
  hello : Option HelloCause
deriving DecidableEq, Repr

/-- The seven counters (R180). -/
structure Counters where
  crc : Word16
  framing : Word16
  gap : Word16
  overrun : Word16
  duplicate : Word16
  busStall : Word16
  holdExpiry : Word16
deriving DecidableEq, Repr

/-- The baud rate taken from the straps (R168). -/
inductive Baud where
  | b115200
  | b230400
  | b460800
  | b921600
deriving DecidableEq, Repr

/-- The whole part, and the queue of commands and events waiting to be taken (log 3). -/
structure State where
  pending : List Instr
  hardReset : Bool
  baud : Baud
  table : Vector (Option Record) 48
  store : Memory
  freeBlocks : List BlockNo
  updateHold : List HeldLoad
  engine : Engine
  buffers : Vector Buffer 64
  freeBuffers : List BufferNo
  notices : NoticeQueue
  link : Link
  counters : Counters
  holdLimit : Byte
  stallLimit : Byte
deriving DecidableEq, Repr

/-- Reasons for which the part stops. The spec names none: a bad command is refused with a status, a
damaged frame is dropped and counted, a stalled transaction is abandoned (log 16). -/
inductive Fault where
deriving DecidableEq, Repr

/-- Reasons for which a step has no meaning in the model. -/
inductive Refusal where
  /-- Raised by an arm of `exec` whose command has no meaning yet; no arm raises it. Safe: the model
  stops where the part goes on. -/
  | notModelled (mnemonic : String)
deriving DecidableEq, Repr

/-- The engine after a hardware or soft reset (R72). -/
def Engine.reset : Engine where
  phase := .detached
  detaching := false
  ctx := none
  holdTimer := none
  stallTimer := none
  stretching := false
  sda := .released

/-- The Notice Queue after a hardware or soft reset (R135). -/
def NoticeQueue.reset : NoticeQueue where
  completed := []
  reservation := false
  credit := 0
  overflow := false
  seq := 0

/-- All counters 0 (R180). -/
def Counters.reset : Counters where
  crc := 0
  framing := 0
  gap := 0
  overrun := 0
  duplicate := 0
  busStall := 0
  holdExpiry := 0

/-- A message buffer of zeros. DESIGN CHOICE, unsafe: the spec gives a free buffer's bytes no reset
value, and nothing can observe them (R99; log 10). -/
def Buffer.reset : Buffer where
  length := 0
  bytes := List.replicate 32 0

/-- The link after a hardware reset with LRX high: HELLO(HARD) pending (R181). -/
def Link.reset : Link where
  receiver := .hunt
  inbox := []
  responses := []
  cache := none
  sending := none
  hello := some .hard

/-- The part right after the end of a hardware reset (R1, R44, R45, R61, R72, R98, R120, R135, R160,
R181). DESIGN CHOICE, unsafe: the straps read 0 and 0 and LRX is high (log 8). -/
def State.reset : State where
  pending := []
  hardReset := false
  baud := .b115200
  table := Vector.replicate 48 none
  store := []
  freeBlocks := List.finRange 128
  updateHold := []
  engine := Engine.reset
  buffers := Vector.replicate 64 Buffer.reset
  freeBuffers := List.finRange 64
  notices := NoticeQueue.reset
  link := Link.reset
  counters := Counters.reset
  holdLimit := Config.holdLimitReset
  stallLimit := Config.stallLimitReset

end Sys2Proof.Machine
end

