-- ==== Sys2Proof/Machine/Operands.lean ====
section
/-! DEFINITION. Every operand form: the address byte, the codes of commands, statuses and named values, the payloads of commands and the layouts of every frame the part sends (11_frame_and_payload_formats.md). -/

namespace Sys2Proof.Machine

/-! ## The address byte (R33, R68) -/

/-- The seven address bits of an address byte, sent first (R33). -/
def busAddress (value : Byte) : Address := value.extractLsb' 1 7

/-- The direction of an address byte: its last bit, 1 for a read (R33). -/
def busDirection (value : Byte) : Direction := if value.getLsbD 0 then .read else .write

/-! ## Fields of a payload -/

/-- Payload byte `k`; only asked for within the length R188 has checked. -/
def byteAt (p : List Byte) (k : Nat) : Byte := p.getD k 0

/-- A two-byte field at offset `k`, least significant byte first (R186). -/
def wordAt (p : List Byte) (k : Nat) : Word16 := byteAt p (k + 1) ++ byteAt p k

/-- A two-byte field as sent, least significant byte first (R186). -/
def wordBytes (w : Word16) : List Byte := [w.extractLsb' 0 8, w.extractLsb' 8 8]

/-- A number as one byte of a payload. -/
def natByte (n : Nat) : Byte := BitVec.ofNat 8 n

/-- A number as a two-byte field of a payload (R186). -/
def natBytes (n : Nat) : List Byte := wordBytes (BitVec.ofNat 16 n)

/-- yes and no in a byte of its own (R187). -/
def boolByte (b : Bool) : Byte := if b then 1 else 0

/-- A slot as a payload byte. -/
def slotByte (i : Slot) : Byte := natByte i.val

/-- The byte that stands for "no slot" (R187). -/
def noSlot : Byte := 0xFF

/-- The slot a payload byte names: none is BAD_SLOT (R11). -/
def slotOf (b : Byte) : Option Slot := if h : b.toNat < 48 then some ⟨b.toNat, h⟩ else none

/-! ## Codes (R187) -/

/-- The status of a response (R187). -/
inductive Status where
  | ok
  | held
  | deferred
  | late
  | unknownCommand
  | badLength
  | badParam
  | badSlot
  | badState
  | badAddress
  | overlap
  | noSlot
  | noSpace
  | outOfRange
  | full
  | busy
  | wrongKind
deriving DecidableEq, Repr

/-- The code of a status (R187). -/
def statusByte : Status → Byte
  | .ok => 0x00
  | .held => 0x01
  | .deferred => 0x02
  | .late => 0x03
  | .unknownCommand => 0x10
  | .badLength => 0x11
  | .badParam => 0x12
  | .badSlot => 0x13
  | .badState => 0x14
  | .badAddress => 0x15
  | .overlap => 0x16
  | .noSlot => 0x17
  | .noSpace => 0x18
  | .outOfRange => 0x19
  | .full => 0x1A
  | .busy => 0x1B
  | .wrongKind => 0x1C

/-- The 21 command codes (R187). -/
inductive Command where
  | identify
  | status
  | reset
  | credit
  | attach
  | detach
  | holdLimit
  | stallLimit
  | install
  | activate
  | quiesce
  | resume
  | retire
  | query
  | lookup
  | touch
  | load
  | read
  | fill
  | post
  | flush
deriving DecidableEq, Repr

/-- The code of a command (R187). -/
def commandCode : Command → Byte
  | .identify => 0x01
  | .status => 0x02
  | .reset => 0x03
  | .credit => 0x04
  | .attach => 0x05
  | .detach => 0x06
  | .holdLimit => 0x07
  | .stallLimit => 0x08
  | .install => 0x10
  | .activate => 0x11
  | .quiesce => 0x12
  | .resume => 0x13
  | .retire => 0x14
  | .query => 0x15
  | .lookup => 0x16
  | .touch => 0x17
  | .load => 0x20
  | .read => 0x21
  | .fill => 0x22
  | .post => 0x30
  | .flush => 0x31

/-- Every command. -/
def allCommands : List Command :=
  [.identify, .status, .reset, .credit, .attach, .detach, .holdLimit, .stallLimit,
   .install, .activate, .quiesce, .resume, .retire, .query, .lookup, .touch,
   .load, .read, .fill, .post, .flush]

/-- CODE is one of the 21 command codes (R188). -/
def isCommandCode (code : Byte) : Bool := allCommands.any fun c => commandCode c == code

/-- The payload lengths each command allows (R189). -/
def lengthAllowed (c : Command) (n : Nat) : Bool :=
  match c with
  | .identify | .reset | .attach | .detach => n == 0
  | .status | .credit | .holdLimit | .stallLimit => n == 1
  | .install => n == 11
  | .activate | .quiesce | .resume | .retire | .query | .touch | .flush | .lookup => n == 1
  | .load | .fill => 3 ≤ n && n ≤ 50
  | .read => n == 3
  | .post => 3 ≤ n && n ≤ 34

/-- State code of a slot: FREE 0 (R187). -/
def stateByte : Option Record → Byte
  | none => 0
  | some r =>
    match r.state with
    | .staged => 1
    | .live => 2
    | .quiesced => 3
    | .retiring => 4

/-- Write-policy code (R187). -/
def policyByte : WritePolicy → Byte
  | .deny => 0
  | .apply => 1
  | .forward => 2

/-- The write policy of a code; 3 to 15 name none (R189). -/
def policyOf (code : BitVec 4) : Option WritePolicy :=
  if code = 0 then some .deny else if code = 1 then some .apply
  else if code = 2 then some .forward else none

/-- Engine phase code (R187). -/
def phaseByte : Phase → Byte
  | .detached => 0
  | .listen => 1
  | .address => 2
  | .hold => 3
  | .pointer => 4
  | .write => 5
  | .read => 6
  | .readEnd => 7
  | .ignore => 8
  | .recover => 9

/-- Hold reason code (R187). -/
def reasonByte : HoldReason → Byte
  | .fetch => 0
  | .space => 1

/-- HELLO cause code (R187). -/
def causeByte : HelloCause → Byte
  | .hard => 0
  | .soft => 1
  | .link => 2

/-- CODE of a notice frame (R187, R191). -/
def noticeCode : NoticeBody → Byte
  | .write _ _ => 0x40
  | .mailboxIn _ => 0x41
  | .fetch _ => 0x48
  | .holdExpired _ => 0x49
  | .stale => 0x4A
  | .retired => 0x4B
  | .busStall _ => 0x4C

/-- CODE of a HELLO frame (R187). -/
def helloCode : Byte := 0x4F

/-! ## The INSTALL payload (R189) -/

/-- The fields of an INSTALL payload, as they stand in it. -/
structure InstallFields where
  slot : Byte
  kindCode : BitVec 2
  activate : Bool
  tagPresent : Bool
  fetchOnRead : Bool
  refuse : Bool
  acceptInbound : Bool
  undefinedFlag : Bool
  address : Byte
  mask : Byte
  tag : Word16
  interval : Byte
  size : Word16
  fill : Byte
  policyCode : BitVec 4
  depth : BitVec 4
deriving DecidableEq, Repr

/-- The INSTALL payload by its offsets and bits (R189). -/
def installFields (p : List Byte) : InstallFields where
  slot := byteAt p 0
  kindCode := (byteAt p 1).extractLsb' 0 2
  activate := (byteAt p 1).getLsbD 2
  tagPresent := (byteAt p 1).getLsbD 3
  fetchOnRead := (byteAt p 1).getLsbD 4
  refuse := (byteAt p 1).getLsbD 5
  acceptInbound := (byteAt p 1).getLsbD 6
  undefinedFlag := (byteAt p 1).getLsbD 7
  address := byteAt p 2
  mask := byteAt p 3
  tag := wordAt p 4
  interval := byteAt p 6
  size := wordAt p 7
  fill := byteAt p 9
  policyCode := (byteAt p 10).extractLsb' 0 4
  depth := (byteAt p 10).extractLsb' 4 4

/-- A payload byte that must be a 7-bit value: its most significant bit is set (R13, R43). -/
def notSevenBit (b : Byte) : Bool := b.getLsbD 7

/-- The 7-bit value of such a byte. -/
def sevenBit (b : Byte) : Address := b.extractLsb' 0 7

/-- A field is out of range or does not fit the kind (R13, R189). -/
def installBadParam (q : InstallFields) : Bool :=
  notSevenBit q.address || notSevenBit q.mask || q.undefinedFlag ||
    (if q.kindCode = 0 then
      q.size == 0 || 256 < q.size.toNat || (policyOf q.policyCode).isNone || q.acceptInbound
    else if q.kindCode = 1 then
      q.depth == 0 || 8 < q.depth.toNat || q.fetchOnRead
    else true)

/-! ## The frame (R186) -/

/-- One shift of the CRC register (R186). -/
def crcShift (r : Byte) : Byte :=
  if r.getLsbD 7 then (r <<< 1) ^^^ Config.crcPolynomial else r <<< 1

/-- The CRC register after one more byte: exclusive OR, then eight shifts (R186). -/
def crcByte (r b : Byte) : Byte :=
  crcShift (crcShift (crcShift (crcShift (crcShift (crcShift (crcShift (crcShift (r ^^^ b))))))))

/-- The CRC of a run of bytes, from a register of 0x00 (R186). -/
def crcOf (bytes : List Byte) : Byte := bytes.foldl crcByte 0x00

/-- LEN of a frame: SEQ, CODE and the payload (R186). -/
def frameLength (f : Frame) : Byte := natByte (f.payload.length + 2)

/-- The bytes the CRC covers: LEN to the last payload byte (R186). -/
def frameBody (f : Frame) : List Byte := frameLength f :: f.seq :: f.code :: f.payload

/-- The bytes of a frame on the line: SYNC, LEN, SEQ, CODE, PAYLOAD, CRC (R186). -/
def frameWire (f : Frame) : List Byte := Config.syncByte :: frameBody f ++ [crcOf (frameBody f)]

/-- The levels of a character on LRX or LTX, one for each of its ten bit periods, high being true: a low start
bit, the 8 data bits with the least significant first, a high stop bit, no parity (R168). -/
def charBits (value : Byte) : List Bool := false :: (List.range 8).map value.getLsbD ++ [true]

/-- The byte of eight data bits, the least significant first. -/
def bitsByte (bits : List Bool) : Byte := natByte (bits.foldr (fun b n => b.toNat + 2 * n) 0)

/-- The byte of a character as it is received: ten levels, sampled in the middle of their bit periods, of which
the first is a low start bit and the last a high stop bit; with a low stop bit no character is received (R168,
R169). -/
def charOfBits : List Bool → Option Byte
  | [start, b0, b1, b2, b3, b4, b5, b6, b7, stop] =>
    if !start && stop then some (bitsByte [b0, b1, b2, b3, b4, b5, b6, b7]) else none
  | _ => none

/-- The levels of a frame on the line, each character following the one before without a pause (R168, R178). -/
def frameBits (f : Frame) : List Bool := (frameWire f).flatMap charBits

/-- The frame made of the bytes from SEQ to the last payload byte. -/
def frameOf (bytes : List Byte) : Frame where
  seq := byteAt bytes 0
  code := byteAt bytes 1
  payload := bytes.drop 2

/-- The response to a command frame: its SEQ, its CODE plus 0x80 modulo 256 (R177, R186). -/
def responseFrame (f : Frame) (reply : List Byte) : Frame where
  seq := f.seq
  code := f.code + 0x80
  payload := reply

/-- The HELLO frame of a cause (R179, R190). -/
def helloFrame (cause : HelloCause) : Frame where
  seq := 0
  code := helloCode
  payload := causeByte cause :: Config.identity

/-- The kind-specific bytes of a notice frame (R191). -/
def noticeFields : NoticeBody → List Byte
  | .write start data => natByte start :: data
  | .mailboxIn data => data
  | .fetch pointer => natBytes pointer
  | .holdExpired reason => [reasonByte reason]
  | .stale => []
  | .retired => []
  | .busStall phase => [phaseByte phase]

/-- The notice flags: bit 0 overflow, bit 1 tag present (R191). -/
def noticeFlags (overflow : Bool) (n : Notice) : Byte :=
  boolByte overflow ||| (boolByte n.tag.isSome <<< 1)

/-- The tag as a payload carries it: 0 when absent (R190, R191). -/
def tagField (tag : Option Word16) : Word16 := tag.getD 0

/-- The frame of a notice, with the SEQ and the overflow bit it is sent with (R145, R191). -/
def noticeFrame (seq : Byte) (overflow : Bool) (n : Notice) : Frame where
  seq := seq
  code := noticeCode n.body
  payload := noticeFlags overflow n :: slotByte n.slot :: wordBytes (tagField n.tag)
    ++ noticeFields n.body

end Sys2Proof.Machine
end

