-- ==== Sys2Proof/Machine/Flags.lean ====
section
/-! DEFINITION. The flags and the output lines that are functions of the state: READY, ATTN, SCL, LTX, the attach state, the pin, the countdown's running, and the flag bytes of QUERY and STATUS. -/

namespace Sys2Proof.Machine

/-! ## The output lines -/

/-- READY is high while the inbox holds fewer than 4 frames, and low in a hardware reset (R173, R181). -/
def State.readyHigh (s : State) : Bool :=
  !s.hardReset && decide (s.link.inbox.length < Config.inboxEntries)

/-- ATTN is driven low while at least one completed notice is queued (R148). -/
def State.attnLow (s : State) : Bool := !s.notices.completed.isEmpty

/-- SCL is driven low in a hold, from the fall of the eighth clock on, and at no other time (R69, R119). -/
def State.sclHeldLow (s : State) : Bool := s.engine.stretching

/-- The bit of a read byte that stands on SDA is a 0: the most significant first, the next one after each
falling edge, and none after the eighth clock has fallen (R68, R70). -/
def zeroBitOnSda (value : Byte) (edges : Nat) : Bool := decide (edges < 16) && !value.getLsbD (7 - edges / 2)

/-- The part drives SDA low: for an ACK from the fall of the eighth clock to the fall of the acknowledge
clock, and for a 0 bit of a read byte; a 1 bit and a NACK leave the line released (R67, R68, R70). -/
def State.sdaDriven (s : State) : Bool :=
  match s.engine.sda with
  | .ack .due => false
  | .ack .driven => true
  | .ack .clocked => true
  | .data _ value edges => zeroBitOnSda value edges
  | .released => false
  | .nack => false

/-- The frame of a transmission. -/
def sendingFrame : Sending → Frame
  | .hello f => f
  | .response f => f
  | .notice f _ => f

/-- The bytes LTX carries, or none while it is idle (R178, R186). -/
def State.ltxBytes (s : State) : Option (List Byte) :=
  s.link.sending.map fun x => frameWire (sendingFrame x)

/-- LTX is high in bit period `k`, counted from the start of the frame on it: the levels of its characters, and
idle high after them and while nothing is sent (R168, R178). -/
def State.ltxHigh (s : State) (k : Nat) : Bool :=
  match s.link.sending with
  | some x => (frameBits (sendingFrame x)).getD k true
  | none => true

/-! ## Engine flags -/

/-- The engine is attached exactly when its phase is not DETACHED (R72). -/
def Engine.attached (e : Engine) : Bool := e.phase != .detached

/-- The phases in which an endpoint is pinned (R74). -/
def phasePins : Phase → Bool
  | .hold | .pointer | .write | .read | .readEnd => true
  | .detached | .listen | .address | .ignore | .recover => false

/-- The phases in which the stall timer runs (R161). -/
def phaseSupervised : Phase → Bool
  | .pointer | .write | .read | .readEnd => true
  | .detached | .listen | .address | .hold | .ignore | .recover => false

/-- Slot `i` is the pinned slot (R10, R75). -/
def State.pinned (s : State) (i : Slot) : Bool :=
  match s.engine.ctx with
  | some c => c.slot == i
  | none => false

/-- The engine flags of STATUS: bit 0 attached, bit 1 detaching, bit 2 reservation (R190). R190 does not name
bits 3 to 7; they are sent as 0: a DESIGN CHOICE (log 23). -/
def engineFlags (s : State) : Byte :=
  boolByte s.engine.attached ||| (boolByte s.engine.detaching <<< 1)
    ||| (boolByte s.notices.reservation <<< 2)

/-! ## Record flags -/

/-- The countdown of a record runs: LIVE, supervised, and not yet at 0 (R5, R152). -/
def Record.counting (r : Record) : Bool := r.state == .live && r.interval != 0 && r.remaining != 0

/-- The record flags of QUERY: bit 0 tag present, 1 stale, 2 REFUSE, 3 pinned, 4 fetch-on-read,
5 accept inbound, 6 head flushed (R190). The bits R190 names for the other kind or not at all (5 to 7 of a BANK,
4 and 7 of a MAILBOX) are sent as 0: a DESIGN CHOICE (log 23). -/
def recordFlags (r : Record) (pinned : Bool) : Byte :=
  boolByte r.tag.isSome ||| (boolByte r.stale <<< 1) ||| (boolByte (r.stalePolicy == .refuse) <<< 2)
    ||| (boolByte pinned <<< 3) |||
    match r.content with
    | .bank b => boolByte b.fetchOnRead <<< 4
    | .mailbox m => (boolByte m.acceptInbound <<< 5) ||| (boolByte m.headFlushed <<< 6)

/-- A counter runs from 0 to 65535 and stays there (R180). -/
def countUp (n : Word16) : Word16 := if n = 0xFFFF then n else n + 1

end Sys2Proof.Machine
end

