-- ==== Sys2Proof/Machine/Ops.lean ====
section
/-! DEFINITION. The operations the meanings share: the Register Store and its window mapping, the free pools, the records, the Notice Queue, the Address Resolver, the end of a transaction, the Command Engine's taking of a frame, the Link Receiver, the Link Transmitter and the resets. -/

namespace Sys2Proof.Machine

/-! ## The Register Store (R44, R48) -/

/-- The byte at store address `a`; an unlisted address holds the reset value 0 (R44). -/
def memRead : Memory → Nat → Byte
  | [], _ => 0
  | (k, v) :: m, a => if k = a then v else memRead m a

/-- Write one byte, keeping the canonical form: a 0 removes the cell. -/
def memWrite : Memory → Nat → Byte → Memory
  | [], a, v => if v = 0 then [] else [(a, v)]
  | (k, w) :: m, a, v =>
    if a < k then (if v = 0 then (k, w) :: m else (a, v) :: (k, w) :: m)
    else if a = k then (if v = 0 then m else (a, v) :: m)
    else (k, w) :: memWrite m a v

/-- The canonical form: addresses strictly rising and inside the store, no cell holding 0. -/
def Memory.wf (m : Memory) : Bool :=
  decide (m.Pairwise fun c d => c.1 < d.1) &&
    m.all fun c => c.2 != 0 && decide (c.1 < Config.storeBytes)

/-- The store address of window byte `p` under a block list: the block at position p / 16, byte p mod
16 of it (R48); none past the last block. -/
def windowCell (blocks : List BlockNo) (p : Nat) : Option Nat :=
  (blocks[p / Config.blockBytes]?).map fun k => k.val * Config.blockBytes + p % Config.blockBytes

/-- Window byte `p` (R48). -/
def windowByte (m : Memory) (blocks : List BlockNo) (p : Nat) : Byte :=
  match windowCell blocks p with
  | some a => memRead m a
  | none => 0

/-- Write window byte `p` (R48). -/
def windowSet (m : Memory) (blocks : List BlockNo) (p : Nat) (v : Byte) : Memory :=
  match windowCell blocks p with
  | some a => memWrite m a v
  | none => m

/-- Write `data` into window bytes `p`, p + 1 and on (R49, R52). -/
def windowWrite (m : Memory) (blocks : List BlockNo) (p : Nat) : List Byte → Memory
  | [] => m
  | v :: data => windowWrite (windowSet m blocks p v) blocks (p + 1) data

/-- Window bytes `p` to p + n - 1 in ascending order (R55). -/
def windowRead (m : Memory) (blocks : List BlockNo) (p n : Nat) : List Byte :=
  (List.range n).map fun k => windowByte m blocks (p + k)

/-- The number of blocks a bank of this size needs: size / 16 rounded up (R46). -/
def blocksNeeded (size : Nat) : Nat := (size + 15) / Config.blockBytes

/-! ## The free pools (R45, R98)

A pool is a set. It is held as an ascending list, so that its lowest-numbered members come first. -/

/-- Put one member back. -/
def poolInsert {n : Nat} (x : Fin n) : List (Fin n) → List (Fin n)
  | [] => [x]
  | y :: pool => if x < y then x :: y :: pool else if x = y then y :: pool else y :: poolInsert x pool

/-- Put members back (R47, R99). -/
def poolReturn {n : Nat} (members pool : List (Fin n)) : List (Fin n) := members.foldr poolInsert pool

/-! ## Records (R1, R2) -/

/-- The record of slot `i`, or none when it is FREE (R1). -/
def State.record (s : State) (i : Slot) : Option Record := s.table[i.val]'i.isLt

/-- Replace the record of slot `i`. -/
def State.setRecord (s : State) (i : Slot) (o : Option Record) : State :=
  { s with table := s.table.set i.val o i.isLt }

/-- Replace the content of the record `r` of slot `i`. -/
def State.setContent (s : State) (i : Slot) (r : Record) (k : Content) : State :=
  s.setRecord i (some { r with content := k })

/-- The message a buffer records (R98). -/
def Buffer.message (b : Buffer) : List Byte := b.bytes.take b.length

/-- Record a message in a buffer: a new length, and the bytes over the start of the old ones (R99). -/
def Buffer.record (b : Buffer) (msg : List Byte) : Buffer where
  length := msg.length
  bytes := msg ++ b.bytes.drop msg.length

/-- Buffer `k` of the Message Pool (R98). -/
def State.buffer (s : State) (k : BufferNo) : Buffer := s.buffers[k.val]'k.isLt

/-- Free the record of slot `i`: its blocks go back to the Free Block Pool, or the buffers of its
queue to the Message Pool; their contents stay (R21, R47, R99). -/
def State.freeRecord (s : State) (i : Slot) : State :=
  match s.record i with
  | none => s
  | some r =>
    match r.content with
    | .bank b => { s.setRecord i none with freeBlocks := poolReturn b.blocks s.freeBlocks }
    | .mailbox m => { s.setRecord i none with freeBuffers := poolReturn m.queue s.freeBuffers }

/-- Load the remaining count with the interval and clear stale: a refresh, and what ACTIVATE and
RESUME do (R5, R153). Whether the countdown runs follows from the state (R152). -/
def Record.reload (r : Record) : Record := { r with remaining := r.interval, stale := false }

/-- Refresh slot `i` (R153). -/
def State.refresh (s : State) (i : Slot) : State :=
  match s.record i with
  | none => s
  | some r => s.setRecord i (some r.reload)

/-- Write `data` into the window of bank `b` from `offset` (R52). -/
def State.writeWindow (s : State) (b : Bank) (offset : Nat) (data : List Byte) : State :=
  { s with store := windowWrite s.store b.blocks offset data }

/-! ## The Notice Queue (R135 to R141) -/

/-- WRITE and MAILBOX_IN are data-class, the rest event-class (R136). -/
def Notice.isData (n : Notice) : Bool :=
  match n.body with
  | .write _ _ => true
  | .mailboxIn _ => true
  | _ => false

/-- Total occupancy: the completed notices plus the reservation (R136). -/
def NoticeQueue.total (q : NoticeQueue) : Nat := q.completed.length + q.reservation.toNat

/-- Data occupancy: the completed data-class notices plus the reservation (R136). -/
def NoticeQueue.dataTotal (q : NoticeQueue) : Nat := q.completed.countP Notice.isData + q.reservation.toNat

/-- An entry is free for an event notice (R136). -/
def NoticeQueue.hasRoom (q : NoticeQueue) : Bool := q.total < Config.noticeEntries

/-- A reservation can be granted (R136, R141). -/
def NoticeQueue.canReserve (q : NoticeQueue) : Bool :=
  !q.reservation && q.dataTotal < Config.dataEntries && q.total < Config.noticeEntries

/-- An event notice asks for an entry: it joins the tail, or is lost and sets the overflow flag (R138). -/
def NoticeQueue.raise (q : NoticeQueue) (n : Notice) : NoticeQueue :=
  if q.hasRoom then { q with completed := q.completed ++ [n] } else { q with overflow := true }

/-- Grant the reservation (R141). -/
def NoticeQueue.reserve (q : NoticeQueue) : NoticeQueue := { q with reservation := true }

/-- Complete the reservation into a data notice: the occupancies do not change (R141). -/
def NoticeQueue.complete (q : NoticeQueue) (n : Notice) : NoticeQueue :=
  { q with completed := q.completed ++ [n], reservation := false }

/-- Release the reservation (R141). -/
def NoticeQueue.release (q : NoticeQueue) : NoticeQueue := { q with reservation := false }

/-- Raise an event notice (R138). -/
def State.raise (s : State) (n : Notice) : State := { s with notices := s.notices.raise n }

/-! ## The Address Resolver (R28 to R36) -/

/-- The number of mask bits set (R30). -/
def maskCount (mask : Address) : Nat := (List.range 7).countP fun k => mask.getLsbD k

/-- Specificity: 7 minus the number of mask bits (R3, R30). -/
def specificity (mask : Address) : Nat := 7 - maskCount mask

/-- The address stored for a supplied one: every masked bit 0 (R3). -/
def storedAddress (address mask : Address) : Address := address &&& ~~~mask

/-- `a` is in the address set of `address` and `mask` (R28). -/
def inAddressSet (address mask a : Address) : Bool := (a ^^^ address) &&& ~~~mask == 0

/-- A reserved address, 0x00 to 0x07 or 0x78 to 0x7F (R29). -/
def reservedAddress (a : Address) : Bool := decide (a.toNat ≤ 0x07) || decide (0x78 ≤ a.toNat)

/-- Two address sets intersect: the addresses agree wherever neither mask marks (R31). -/
def setsIntersect (address₁ mask₁ address₂ mask₂ : Address) : Bool :=
  (address₁ ^^^ address₂) &&& ~~~(mask₁ ||| mask₂) == 0

/-- Every address of the set is reserved (R14). -/
def wholeSetReserved (address mask : Address) : Bool :=
  (List.range 128).all fun k =>
    !inAddressSet address mask (BitVec.ofNat 7 k) || reservedAddress (BitVec.ofNat 7 k)

/-- A record is a candidate for `a`: LIVE or QUIESCED, with `a` in its set (R34). -/
def isCandidate (a : Address) (r : Record) : Bool :=
  (r.state == .live || r.state == .quiesced) && inAddressSet r.address r.mask a

/-- The candidate of highest specificity among the slots listed, the lowest-numbered if two were equal
(which R32 keeps from occurring) (R35). -/
def bestCandidate (table : Vector (Option Record) 48) (a : Address) : List Slot → Option (Slot × Record)
  | [] => none
  | i :: rest =>
    match table[i.val]'i.isLt with
    | none => bestCandidate table a rest
    | some r =>
      if isCandidate a r then
        match bestCandidate table a rest with
        | none => some (i, r)
        | some (j, q) => if specificity q.mask ≤ specificity r.mask then some (i, r) else some (j, q)
      else bestCandidate table a rest

/-- The resolving endpoint of an address, if any (R29, R35). -/
def resolve (table : Vector (Option Record) 48) (a : Address) : Option (Slot × Record) :=
  if reservedAddress a then none else bestCandidate table a (List.finRange 48)

/-- The kinds of outcome of an address byte (R36). -/
inductive AddressOutcome where
  | nack
  | ack
  | fetch
  | reserve
deriving DecidableEq, Repr

/-- Rows 2 to 10 of the outcome table for the resolving endpoint (R36). -/
def addressOutcome (r : Record) (d : Direction) : AddressOutcome :=
  if r.state = .quiesced then .nack
  else if r.stale && r.stalePolicy == .refuse then .nack
  else
    match r.content, d with
    | .bank b, .read => if b.fetchOnRead then .fetch else .ack
    | .bank b, .write =>
      match b.policy with
      | .deny => .ack
      | .apply => .ack
      | .forward => .reserve
    | .mailbox _, .read => .ack
    | .mailbox m, .write => if m.acceptInbound then .reserve else .nack

/-- The bus pointer of a bank, with which the context's start pointer begins (R75). A mailbox has no bus
pointer (R7, R90), and R75 states no value for it: 0 is the model's DESIGN CHOICE (log 21), and no command, byte
or notice shows it. -/
def contentPointer : Content → Nat
  | .bank b => b.pointer
  | .mailbox _ => 0

/-- The context made at the pin (R75); the start pointer 0 of a mailbox's context is a DESIGN CHOICE (log 21). -/
def newContext (i : Slot) (r : Record) (d : Direction) (reason : Option HoldReason)
    (reserved : Bool) : Context where
  slot := i
  direction := d
  holdReason := reason
  reserved := reserved
  startPointer := contentPointer r.content
  refusing := false
  headServed := 0
  collected := []
  served := .unfixed

/-- The phase after the ACK of an address (R39). -/
def ackPhase (k : Content) : Direction → Phase
  | .read => .read
  | .write =>
    match k with
    | .bank _ => .pointer
    | .mailbox _ => .write

/-- ACK: pin, make the context, start the stall timer with the limit in force; SDA is driven from the fall of
the eighth clock (R39, R68, R76, R161). -/
def State.ackAddress (s : State) (i : Slot) (r : Record) (d : Direction) (reserved : Bool) : State :=
  { s with engine := { s.engine with
      phase := ackPhase r.content d
      ctx := some (newContext i r d none reserved)
      holdTimer := none
      stallTimer := some s.stallLimit
      sda := .ack .due } }

/-- HOLD: pin, make the context, start the hold timer with the limit in force; SDA stays released, and SCL is
driven low from the fall of the eighth clock (R69, R119, R120). -/
def State.holdAddress (s : State) (i : Slot) (r : Record) (d : Direction) (reason : HoldReason) : State :=
  { s with engine := { s.engine with
      phase := .hold
      ctx := some (newContext i r d (some reason) false)
      holdTimer := some s.holdLimit
      stallTimer := none
      stretching := false
      sda := .released } }

/-- NACK: nothing is pinned; the engine waits for a STOP or a START (R39). -/
def State.nackAddress (s : State) : State :=
  { s with engine := { s.engine with phase := .ignore, sda := .nack } }

/-- The outcome of an address byte that is resolved (R36 to R39). -/
def State.answerAddress (s : State) (a : Address) (d : Direction) : State :=
  match resolve s.table a with
  | none => s.nackAddress
  | some (i, r) =>
    match addressOutcome r d with
    | .nack => s.nackAddress
    | .ack => s.ackAddress i r d false
    | .fetch =>
      let notice : Notice := { slot := i, tag := r.tag, body := .fetch (contentPointer r.content) }
      if s.notices.hasRoom then (s.raise notice).holdAddress i r d .fetch
      else (s.raise notice).nackAddress
    | .reserve =>
      if s.notices.canReserve then
        ({ s with notices := s.notices.reserve } : State).ackAddress i r d true
      else s.holdAddress i r d .space

/-- A hold ends with ACK: the timer stops, SDA is driven low, SCL is released, the stall timer starts (R69, R119,
R161). Before the fall of the eighth clock SCL is not held yet, and the ACK waits for that fall as it does at an
address that is not held (R67, R68; log 17). From that fall on SDA is driven at once, also while a bus controller
forces SCL high against the stretch (R69, R123, R126, against R67): a DESIGN CHOICE (log 24). -/
def State.endHoldWithAck (s : State) (c : Context) (phase : Phase) : State :=
  { s with engine := { s.engine with
      phase := phase
      ctx := some { c with holdReason := none }
      holdTimer := none
      stallTimer := some s.stallLimit
      stretching := false
      sda := .ack (if s.engine.stretching then .driven else .due) } }

/-! ## The end of a transaction (R77, R78) -/

/-- What ends a transaction (R77). -/
inductive EndCause where
  | stop
  | start
  | abandonment
  | expiry
  | retire
  | detach
deriving DecidableEq, Repr

/-- STOP and repeated START complete what a transaction was for; no other end does (R77, R107). -/
def EndCause.normal : EndCause → Bool
  | .stop => true
  | .start => true
  | .abandonment => false
  | .expiry => false
  | .retire => false
  | .detach => false

/-- The data notice an open write would make, from the context and the record (R77, R115, R137). -/
def dataNotice (r : Record) (c : Context) : Notice where
  slot := c.slot
  tag := r.tag
  body :=
    match r.content with
    | .bank _ => .write c.startPointer c.collected
    | .mailbox _ => .mailboxIn c.collected

/-- Step 1: the reservation is completed or released (R77, R141). -/
def State.settleReservation (s : State) (c : Context) (cause : EndCause) : State :=
  if c.reserved then
    match s.record c.slot with
    | some r =>
      if cause.normal && !c.collected.isEmpty then
        { s with notices := s.notices.complete (dataNotice r c) }
      else { s with notices := s.notices.release }
    | none => { s with notices := s.notices.release }
  else s

/-- Take one message out of a mailbox's queue and free its buffer; the head-flushed mark goes (R108). -/
def State.removeServed (s : State) (i : Slot) (r : Record) (m : Mailbox) (k : BufferNo) : State :=
  { s.setContent i r (.mailbox { m with queue := m.queue.erase k, headFlushed := false }) with
    freeBuffers := poolInsert k s.freeBuffers }

/-- Step 2: the served message of a mailbox read is consumed, removed or left (R107, R108). -/
def State.settleHead (s : State) (c : Context) (cause : EndCause) : State :=
  match s.record c.slot, c.served with
  | some r, .message k =>
    match r.content with
    | .mailbox m =>
      if m.headFlushed || (cause.normal && c.headServed == (s.buffer k).length) then
        s.removeServed c.slot r m k
      else s
    | .bank _ => s
  | _, _ => s

/-- The store after one held entry is applied to its bank (R58). -/
def applyHeld (table : Vector (Option Record) 48) (store : Memory) (h : HeldLoad) : Memory :=
  match table[h.slot.val]'h.slot.isLt with
  | some r =>
    match r.content with
    | .bank b => windowWrite store b.blocks h.offset h.data
    | .mailbox _ => store
  | none => store

/-- The record of slot `i` is RETIRING. -/
def State.retiring (s : State) (i : Slot) : Bool :=
  match s.record i with
  | some r => r.state == .retiring
  | none => false

/-- Step 3: the Update Hold is applied oldest first, or discarded (R58, R59). -/
def State.settleUpdateHold (s : State) (c : Context) (cause : EndCause) : State :=
  if cause = .retire || s.retiring c.slot then { s with updateHold := [] }
  else { s with store := s.updateHold.foldl (applyHeld s.table) s.store, updateHold := [] }

/-- Step 4: a RETIRING record is freed, and RETIRED asks for an entry with the tag the record had (R25). -/
def State.settleRetirement (s : State) (c : Context) : State :=
  match s.record c.slot with
  | some r =>
    if r.state = .retiring then
      (s.freeRecord c.slot).raise { slot := c.slot, tag := r.tag, body := .retired }
    else s
  | none => s

/-- The unpin: the four steps in order, then no context, no timer and no hold of SCL (R69, R77, R161). -/
def State.unpin (s : State) (cause : EndCause) : State :=
  match s.engine.ctx with
  | none => s
  | some c =>
    let t := (((s.settleReservation c cause).settleHead c cause).settleUpdateHold c cause).settleRetirement c
    { t with engine := { t.engine with ctx := none, holdTimer := none, stallTimer := none, stretching := false } }

/-- The phase, the mark and the lines after the sequence (R78, R96). -/
def Engine.afterEnd (e : Engine) : EndCause → Engine
  | .stop =>
    if e.detaching then { e with phase := .detached, detaching := false, sda := .released }
    else { e with phase := .listen, sda := .released }
  | .start => { e with phase := .address, sda := .released }
  | .abandonment =>
    if e.detaching then { e with phase := .detached, detaching := false, sda := .released }
    else { e with phase := .recover, sda := .released }
  | .expiry => { e with phase := .ignore, sda := .nack }
  | .retire => { e with phase := .ignore, sda := .nack }
  | .detach => { e with phase := .detached, detaching := false, sda := .nack }

/-- A transaction ends: the unpin, then the phase that follows, in one event (R77, R78). -/
def State.endTransaction (s : State) (cause : EndCause) : State :=
  let t := s.unpin cause
  { t with engine := t.engine.afterEnd cause }

/-! ## Resets -/

/-- Every block cleared as at a hardware or soft reset; the link, the limits, the rate and the queue
of events are left to the caller. Free buffers keep their bytes, unobservable (R1, R44, R61, R72, R98,
R135, R180). -/
def State.clearBlocks (s : State) : State :=
  { s with
    table := Vector.replicate 48 none
    store := []
    freeBlocks := List.finRange 128
    updateHold := []
    engine := Engine.reset
    freeBuffers := List.finRange 64
    notices := NoticeQueue.reset
    counters := Counters.reset }

/-- The link with nothing in it (R181, R182). -/
def clearedLink (receiver : Receiver) (hello : Option HelloCause) : Link where
  receiver := receiver
  inbox := []
  responses := []
  cache := none
  sending := none
  hello := hello

/-- The receiver after a soft reset: HUNT, or BREAK while a break is still on the line (R170, R182; log 13). -/
def receiverCleared : Receiver → Receiver
  | .lineBreak => .lineBreak
  | .hunt => .hunt
  | .frameLen => .hunt
  | .frameBody _ _ => .hunt

/-- A soft reset: everything cleared, HELLO(SOFT) pending; rate and limits kept (R182). Of a character or a
low LRX that is under way when it is taken nothing is kept: whether its event still follows is the queue's, a
DESIGN CHOICE (log 22; R185, R169). -/
def State.softReset (s : State) : State :=
  { s.clearBlocks with link := clearedLink (receiverCleared s.link.receiver) (some .soft) }

/-! ## The Command Engine (R175 to R177, R188) -/

/-- A command's effect: the state after it, and the payload of its response. -/
abbrev Reply := State × List Byte

/-- A response of a status alone (R190). -/
def State.reply (s : State) (status : Status) : Reply := (s, [statusByte status])

/-- A response of status OK and result fields (R190). -/
def State.replyOk (s : State) (fields : List Byte) : Reply := (s, statusByte .ok :: fields)

/-- The frame is a duplicate: the cache is valid and its SEQ is the recorded one (R176). -/
def isDuplicate (l : Link) (f : Frame) : Bool :=
  match l.cache with
  | some e => e.seq == f.seq
  | none => false

/-- The frame the Command Engine can take: the inbox's head while the Response Queue has room (R175). -/
def takeable (l : Link) : Option Frame :=
  if l.responses.length < Config.responseEntries then l.inbox.head? else none

/-- The frame leaves the inbox (R175). -/
def State.dropHead (s : State) : State := { s with link := { s.link with inbox := s.link.inbox.tail } }

/-- The response joins the Response Queue and becomes the cached one (R175, R176). -/
def State.respond (s : State) (f : Frame) (reply : List Byte) : State :=
  { s with link := { s.link with
      responses := s.link.responses ++ [responseFrame f reply]
      cache := some { seq := f.seq, response := responseFrame f reply } } }

/-- The refusal of a payload of the wrong length; INSTALL's carries the slot byte too (R188). -/
def badLengthReply (c : Command) : List Byte :=
  if c = .install then [statusByte .badLength, noSlot] else [statusByte .badLength]

/-- The Command Engine takes the head frame as command `c`, if that is what it is and it is no
duplicate: the length is checked, then `effect` acts and the response is queued and cached, all in one
event (R175, R176, R188). Otherwise this event does not occur (log 2). -/
def State.runCommand (s : State) (c : Command) (effect : List Byte → State → Reply) : State :=
  match takeable s.link with
  | none => s
  | some f =>
    if f.code == commandCode c && !isDuplicate s.link f then
      if lengthAllowed c f.payload.length then
        let r := effect f.payload s.dropHead
        r.1.respond f r.2
      else s.dropHead.respond f (badLengthReply c)
    else s

/-- A command whose payload begins with a slot: BAD_SLOT first (R11). -/
def withSlot (p : List Byte) (s : State) (effect : Slot → Reply) : Reply :=
  match slotOf (byteAt p 0) with
  | none => s.reply .badSlot
  | some i => effect i

/-- The record of slot `i` for a command that FREE and RETIRING refuse with BAD_STATE (R9, R11). -/
def withUsable (s : State) (i : Slot) (effect : Record → Reply) : Reply :=
  match s.record i with
  | none => s.reply .badState
  | some r => if r.state = .retiring then s.reply .badState else effect r

/-- The record of slot `i` for a command that only FREE refuses (R55, R109). -/
def withRecord (s : State) (i : Slot) (effect : Record → Reply) : Reply :=
  match s.record i with
  | none => s.reply .badState
  | some r => effect r

/-- The bank of a record, or WRONG_KIND (R51, R55, R122). -/
def withBank (s : State) (r : Record) (effect : Bank → Reply) : Reply :=
  match r.content with
  | .bank b => effect b
  | .mailbox _ => s.reply .wrongKind

/-- The mailbox of a record, or WRONG_KIND (R101, R109). -/
def withMailbox (s : State) (r : Record) (effect : Mailbox → Reply) : Reply :=
  match r.content with
  | .bank _ => s.reply .wrongKind
  | .mailbox m => effect m

/-- LOAD's effect on a bank whose checks up to OUT_OF_RANGE have passed, and FILL's when it answers no
hold: written at once with status `now`, held with status `later`, or BUSY (R52, R53, R65, R124). -/
def State.loadBank (s : State) (i : Slot) (b : Bank) (offset : Nat) (data : List Byte)
    (now later : Status) : Reply :=
  if s.pinned i then
    if s.updateHold.length < Config.updateHoldEntries then
      let entry : HeldLoad := { slot := i, offset := offset, data := data }
      (({ s with updateHold := s.updateHold ++ [entry] } : State).refresh i).reply later
    else s.reply .busy
  else ((s.writeWindow b offset data).refresh i).reply now

/-! ## The Link Receiver (R170 to R173) -/

/-- Set the receiver. -/
def State.setReceiver (s : State) (x : Receiver) : State := { s with link := { s.link with receiver := x } }

/-- A valid frame joins the inbox, or is discarded for overrun when it holds 4 (R173). -/
def State.deliver (s : State) (f : Frame) : State :=
  if s.link.inbox.length < Config.inboxEntries then
    { s with link := { s.link with inbox := s.link.inbox ++ [f] } }
  else { s with counters := { s.counters with overrun := countUp s.counters.overrun } }

/-- The CRC byte of a frame of LEN `len` and bytes `got` has come: a mismatch is counted, a match
delivered, and the receiver hunts (R172). -/
def State.endFrame (s : State) (len : Nat) (got : List Byte) (crc : Byte) : State :=
  if crcOf (natByte len :: got) == crc then (s.setReceiver .hunt).deliver (frameOf got)
  else { s.setReceiver .hunt with counters := { s.counters with crc := countUp s.counters.crc } }

/-- A character taken in HUNT (R170). -/
def State.huntCharacter (s : State) (c : Byte) : State :=
  if c = Config.syncByte then s.setReceiver .frameLen else s.setReceiver .hunt

/-- A character handed to frame reception (R170), one that was under way at a soft reset too (log 22). -/
def State.takeCharacter (s : State) (c : Byte) : State :=
  match s.link.receiver with
  | .hunt => s.huntCharacter c
  | .frameLen =>
    if 2 ≤ c.toNat && c.toNat ≤ 60 then s.setReceiver (.frameBody c.toNat []) else s.huntCharacter c
  | .frameBody len got =>
    if got.length < len then s.setReceiver (.frameBody len (got ++ [c])) else s.endFrame len got c
  | .lineBreak => s

/-! ## The Link Transmitter (R178, R145) -/

/-- Put a frame on LTX. -/
def State.send (s : State) (x : Sending) : State := { s with link := { s.link with sending := some x } }

/-- A notice frame starts: the credit falls, the SEQ and the overflow flag are copied, the flag clears (R145). -/
def State.startNotice (s : State) (n : Notice) : State :=
  let q : NoticeQueue := { s.notices with credit := s.notices.credit - 1, overflow := false }
  ({ s with notices := q } : State).send
    (.notice (noticeFrame s.notices.seq s.notices.overflow n) s.notices.overflow)

/-- The Response Queue's head, or else the head notice when the credit lets it be sent (R178, R145). -/
def State.startQueued (s : State) : State :=
  match s.link.responses, s.notices.completed with
  | f :: _, _ => s.send (.response f)
  | [], n :: _ => if 1 ≤ s.notices.credit then s.startNotice n else s
  | [], [] => s

/-- The arbiter decides, on an idle line: a pending HELLO unless LRX is low in a break, then a
response, then a notice (R178; log 12). -/
def State.arbitrate (s : State) : State :=
  match s.link.sending with
  | some _ => s
  | none =>
    match s.link.hello with
    | some cause => if s.link.receiver = .lineBreak then s.startQueued else s.send (.hello (helloFrame cause))
    | none => s.startQueued

/-- The grant of an open SPACE hold, if the queue has room for its reservation (R126). -/
def State.grantSpace (s : State) : State :=
  match s.engine.ctx with
  | none => s
  | some c =>
    match s.record c.slot with
    | none => s
    | some r =>
      if s.engine.phase = .hold && c.holdReason == some .space && s.notices.canReserve then
        ({ s with notices := s.notices.reserve } : State).endHoldWithAck { c with reserved := true }
          (ackPhase r.content .write)
      else s

/-- A notice frame has been sent in full: the notice leaves, the counter advances, and an open SPACE
hold may be granted (R145, R126). -/
def State.noticeSent (s : State) : State :=
  let q : NoticeQueue :=
    { s.notices with completed := s.notices.completed.tail, seq := s.notices.seq + 1 }
  ({ s with notices := q } : State).grantSpace

/-- The line is idle again. -/
def State.lineIdle (s : State) : State := { s with link := { s.link with sending := none } }

/-- The source of the frame just sent releases it (R177, R179, R145). -/
def State.releaseSent (s : State) (x : Sending) : State :=
  match x with
  | .hello _ => { s with link := { s.link with hello := none } }
  | .response _ => { s with link := { s.link with responses := s.link.responses.tail } }
  | .notice _ _ => s.noticeSent

/-! ## Freshness (R155) -/

/-- An endpoint expires: stale, the count 0 and so stopped, and STALE asks for an entry (R155). -/
def State.expire (s : State) (i : Slot) (r : Record) : State :=
  (s.setRecord i (some { r with remaining := 0, stale := true })).raise
    { slot := i, tag := r.tag, body := .stale }

/-! ## Events -/

/-- Every event but the two of the hardware reset: nothing happens while the part is in reset (R181;
log 14). -/
def event (effect : State → State) (s : State) : Host.Outcome State Fault Refusal :=
  .next (if s.hardReset then s else effect s)

end Sys2Proof.Machine
end

