-- ==== Sys2Proof/Machine/BusEvents.lean ====
section
/-! DEFINITION. The events of the served bus: conditions, bytes, acknowledges and SCL edges. -/

namespace Sys2Proof.Machine

/-! ## Conditions (R73, R74) -/

/-- The engine takes a phase with nothing driven. -/
def State.enterPhase (s : State) (phase : Phase) : State :=
  { s with engine := { s.engine with phase := phase, sda := .released } }

/-- A START: ignored in DETACHED, a new address byte when nothing is pinned, the end of the open
transaction when something is (R72 to R74). -/
def State.startCondition (s : State) : State :=
  match s.engine.phase with
  | .detached => s
  | .listen | .address | .ignore | .recover => s.enterPhase .address
  | .hold | .pointer | .write | .read | .readEnd => s.endTransaction .start

/-- START_CONDITION (R73). -/
def execStartCondition (s : State) : Host.Outcome State Fault Refusal := event State.startCondition s

/-- A STOP: ignored in DETACHED, the end of the open transaction, or back to LISTEN; in ADDRESS with the
detaching mark it completes the detach (R73, R74, R96). -/
def State.stopCondition (s : State) : State :=
  match s.engine.phase with
  | .detached => s
  | .listen | .ignore | .recover => s.enterPhase .listen
  | .address =>
    if s.engine.detaching then
      { s with engine := { s.engine with phase := .detached, detaching := false, sda := .released } }
    else s.enterPhase .listen
  | .hold | .pointer | .write | .read | .readEnd => s.endTransaction .stop

/-- STOP_CONDITION (R74). -/
def execStopCondition (s : State) : Host.Outcome State Fault Refusal := event State.stopCondition s

/-! ## The address byte (R36 to R42) -/

/-- A whole address byte: NACKed without resolution under the detaching mark, which completes the
detach; resolved otherwise; ignored outside ADDRESS (R42, R73, R96). -/
def State.addressByte (s : State) (value : Byte) : State :=
  if s.engine.phase = .address then
    if s.engine.detaching then
      { s with engine := { s.engine with phase := .detached, detaching := false, sda := .nack } }
    else s.answerAddress (busAddress value) (busDirection value)
  else s

/-- ADDRESS_BYTE (R36). -/
def execAddressByte (value : Byte) (s : State) : Host.Outcome State Fault Refusal :=
  event (fun s => s.addressByte value) s

/-! ## Bytes of a write (R84 to R91) -/

/-- The open transaction on a bank in phase `phase`. -/
def State.openBank (s : State) (phase : Phase) : Option (Context × Record × Bank) :=
  if s.engine.phase = phase then
    match s.engine.ctx with
    | none => none
    | some c =>
      match s.record c.slot with
      | none => none
      | some r =>
        match r.content with
        | .bank b => some (c, r, b)
        | .mailbox _ => none
  else none

/-- The open transaction on a mailbox in phase `phase`. -/
def State.openMailbox (s : State) (phase : Phase) : Option (Context × Record × Mailbox) :=
  if s.engine.phase = phase then
    match s.engine.ctx with
    | none => none
    | some c =>
      match s.record c.slot with
      | none => none
      | some r =>
        match r.content with
        | .bank _ => none
        | .mailbox m => some (c, r, m)
  else none

/-- The part takes a write byte with ACK and the context becomes `c`; SDA is driven from the fall of the eighth
clock (R68). -/
def State.ackByte (s : State) (c : Context) : State :=
  { s with engine := { s.engine with phase := .write, ctx := some c, sda := .ack .due } }

/-- The part refuses a write byte with NACK, and the context is refusing from then on (R88). -/
def State.nackByte (s : State) (c : Context) : State :=
  { s with engine := { s.engine with phase := .write, ctx := some { c with refusing := true }, sda := .nack } }

/-- Move the bus pointer of the bank in slot `i`. -/
def State.movePointer (s : State) (i : Slot) (r : Record) (b : Bank) (pointer : Nat) : State :=
  s.setContent i r (.bank { b with pointer := pointer })

/-- The pointer byte: below the size it sets the bus pointer and the start pointer and is ACKed; from
the size on it is NACKed and the context is refusing; the phase becomes WRITE (R84). -/
def State.pointerByte (s : State) (value : Byte) : State :=
  match s.openBank .pointer with
  | none => s
  | some (c, r, b) =>
    if value.toNat < b.size then
      (s.movePointer c.slot r b value.toNat).ackByte { c with startPointer := value.toNat }
    else s.nackByte c

/-- POINTER_BYTE (R84). -/
def execPointerByte (value : Byte) (s : State) : Host.Outcome State Fault Refusal :=
  event (fun s => s.pointerByte value) s

/-- A data byte under APPLY (R86). -/
def State.applyByte (s : State) (c : Context) (r : Record) (b : Bank) (value : Byte) : State :=
  if b.pointer < b.size then
    ((s.writeWindow b b.pointer [value]).movePointer c.slot r b (b.pointer + 1)).ackByte c
  else s.nackByte c

/-- A data byte under FORWARD (R87). -/
def State.forwardByte (s : State) (c : Context) (r : Record) (b : Bank) (value : Byte) : State :=
  if b.pointer < b.size ∧ c.collected.length < Config.messageBytes then
    (s.movePointer c.slot r b (b.pointer + 1)).ackByte { c with collected := c.collected ++ [value] }
  else s.nackByte c

/-- A data byte of a bank write after the pointer byte, by the write policy, unless the context is
refusing (R85 to R88). -/
def State.bankWriteByte (s : State) (value : Byte) : State :=
  match s.openBank .write with
  | none => s
  | some (c, r, b) =>
    if c.refusing then s.nackByte c
    else
      match b.policy with
      | .deny => s.nackByte c
      | .apply => s.applyByte c r b value
      | .forward => s.forwardByte c r b value

/-- BANK_WRITE_BYTE (R86). -/
def execBankWriteByte (value : Byte) (s : State) : Host.Outcome State Fault Refusal :=
  event (fun s => s.bankWriteByte value) s

/-- A data byte of a mailbox write: collected up to 32, refused beyond (R91). -/
def State.mailboxWriteByte (s : State) (value : Byte) : State :=
  match s.openMailbox .write with
  | none => s
  | some (c, _, _) =>
    if !c.refusing && decide (c.collected.length < Config.messageBytes) then
      s.ackByte { c with collected := c.collected ++ [value] }
    else s.nackByte c

/-- MAILBOX_WRITE_BYTE (R91). -/
def execMailboxWriteByte (value : Byte) (s : State) : Host.Outcome State Fault Refusal :=
  event (fun s => s.mailboxWriteByte value) s

/-! ## Bytes of a read (R80, R90, R104, R105) -/

/-- The part places the first bit of a read byte (R70). -/
def State.drive (s : State) (c : Context) (source : ReadSource) (value : Byte) : State :=
  { s with engine := { s.engine with ctx := some c, sda := .data source value 0 } }

/-- The next byte of a bank read: the window byte at the bus pointer, or the pad (R80). -/
def State.driveBank (s : State) (c : Context) (b : Bank) : State :=
  if b.pointer < b.size then s.drive c .window (windowByte s.store b.blocks b.pointer)
  else s.drive c .pad Config.padByte

/-- The next byte of a mailbox read. The first fixes the served message and is its length, or 0 for an
empty queue; then come the message bytes, then the pad (R104, R105). -/
def State.driveMailbox (s : State) (c : Context) (m : Mailbox) : State :=
  match c.served with
  | .unfixed =>
    match m.queue with
    | [] => s.drive { c with served := .empty } .length 0
    | k :: _ => s.drive { c with served := .message k } .length (natByte (s.buffer k).length)
  | .empty => s.drive c .pad Config.padByte
  | .message k =>
    if c.headServed < (s.buffer k).length then
      s.drive c .message (byteAt (s.buffer k).message c.headServed)
    else s.drive c .pad Config.padByte

/-- A read byte is being driven: it has not been acknowledged yet (R70). -/
def Sda.driving : Sda → Bool
  | .data _ _ _ => true
  | .released => false
  | .ack _ => false
  | .nack => false

/-- The part begins to drive the next read byte, in READ, once the one before has been acknowledged (R70). -/
def State.readByteDrive (s : State) : State :=
  if s.engine.sda.driving then s
  else
    match s.openBank .read, s.openMailbox .read with
    | some (c, _, b), _ => s.driveBank c b
    | none, some (c, _, m) => s.driveMailbox c m
    | none, none => s

/-- READ_BYTE_DRIVE (R80). -/
def execReadByteDrive (s : State) : Host.Outcome State Fault Refusal := event State.readByteDrive s

/-- What the acknowledge clock counts for the byte driven through it: a window byte advances the bus
pointer, a message byte is counted as served, a length or a pad byte counts nothing (R81, R106). -/
def State.countDriven (s : State) (source : ReadSource) : State :=
  match source with
  | .window =>
    match s.openBank .read with
    | some (c, r, b) => if b.pointer < b.size then s.movePointer c.slot r b (b.pointer + 1) else s
    | none => s
  | .message =>
    match s.engine.ctx with
    | some c => { s with engine := { s.engine with ctx := some { c with headServed := c.headServed + 1 } } }
    | none => s
  | .length => s
  | .pad => s

/-- The acknowledge of a driven read byte: it counts whether ACKed or NACKed, and a NACK moves the
engine to READ_END (R70, R81, R82, R106). -/
def State.readByteAcknowledge (s : State) (ack : Bool) : State :=
  if s.engine.phase = .read then
    match s.engine.sda with
    | .data source _ _ => (s.countDriven source).enterPhase (if ack then .read else .readEnd)
    | .released => s
    | .ack _ => s
    | .nack => s
  else s

/-- READ_BYTE_ACKNOWLEDGE (R81). -/
def execReadByteAcknowledge (ack : Bool) (s : State) : Host.Outcome State Fault Refusal :=
  event (fun s => s.readByteAcknowledge ack) s

/-! ## SCL (R68 to R70, R161) -/

/-- An ACK at an SCL edge: driven after the fall of the eighth clock, released after the fall of the acknowledge
clock (R68). -/
def ackEdge : AckStage → Edge → Sda
  | .due, .falling => .ack .driven
  | .due, .rising => .ack .due
  | .driven, .rising => .ack .clocked
  | .driven, .falling => .ack .driven
  | .clocked, .falling => .released
  | .clocked, .rising => .ack .clocked

/-- The edges a read byte has seen: a rising and a falling one for each of its eight bits, in turn (R70). -/
def bitEdge (edge : Edge) (edges : Nat) : Nat :=
  if edges < 16 ∧ (edge = .rising ↔ edges % 2 = 0) then edges + 1 else edges

/-- What an SCL edge does to what the part does on SDA (R68, R70). -/
def Sda.atEdge (edge : Edge) : Sda → Sda
  | .released => .released
  | .ack stage => ackEdge stage edge
  | .nack => .nack
  | .data source value edges => .data source value (bitEdge edge edges)

/-- The stretch after an SCL edge in a hold: SCL is driven low from the fall of the eighth clock of the address
byte, whatever edges a bus controller then forces on the line (R69, R119).
The level forced on it is not kept (log 24). -/
def holdEdge (stretching : Bool) : Edge → Bool
  | .falling => true
  | .rising => stretching

/-- An edge of SCL. In an open transaction past its address it restarts the running stall timer with the limit in
force, whichever edge it is, and moves what the part does on SDA; in a hold the first fall begins the stretch; in
any other phase edges are ignored (R68 to R70, R73, R119, R161). -/
def State.sclEdge (s : State) (edge : Edge) : State :=
  if phaseSupervised s.engine.phase then
    { s with engine := { s.engine with
        stallTimer := s.engine.stallTimer.map fun _ => s.stallLimit
        sda := s.engine.sda.atEdge edge } }
  else if s.engine.phase = .hold then
    { s with engine := { s.engine with stretching := holdEdge s.engine.stretching edge } }
  else s

/-- SCL_EDGE (R161). -/
def execSclEdge (edge : Edge) (s : State) : Host.Outcome State Fault Refusal := event (fun s => s.sclEdge edge) s

end Sys2Proof.Machine
end

