-- ==== Sys2Proof/Machine/CommandEngine.lean ====
section
/-! DEFINITION. The Command Engine's own steps: a frame of unknown CODE, and a duplicate. -/

namespace Sys2Proof.Machine

/-- A frame whose CODE is no command code is answered UNKNOWN_COMMAND and cached (R188). -/
def State.takeUnknown (s : State) : State :=
  match takeable s.link with
  | none => s
  | some f =>
    if !isCommandCode f.code && !isDuplicate s.link f then
      s.dropHead.respond f [statusByte .unknownCommand]
    else s

/-- UNKNOWN_COMMAND (R188). -/
def execUnknownCommand (s : State) : Host.Outcome State Fault Refusal := event State.takeUnknown s

/-- The cached response is queued unchanged, the duplicate counter rises, the cache stays (R176). -/
def State.answerDuplicate (s : State) (e : CacheEntry) : State :=
  { s.dropHead with
    link := { s.dropHead.link with responses := s.link.responses ++ [e.response] }
    counters := { s.counters with duplicate := countUp s.counters.duplicate } }

/-- A frame whose SEQ is the cached one is not executed (R176). -/
def State.takeDuplicate (s : State) : State :=
  match takeable s.link, s.link.cache with
  | some f, some e => if e.seq = f.seq then s.answerDuplicate e else s
  | _, _ => s

/-- DUPLICATE (R176). -/
def execDuplicate (s : State) : Host.Outcome State Fault Refusal := event State.takeDuplicate s

end Sys2Proof.Machine
end

