-- ==== Sys2Proof/Machine/Device.lean ====
section
/-! DEFINITION. The device and link commands: IDENTIFY, STATUS, RESET, CREDIT, ATTACH, DETACH, HOLDLIMIT, STALLLIMIT. -/

namespace Sys2Proof.Machine

/-- The identity, and nothing changes (R183, R190). -/
def identifyEffect (_p : List Byte) (s : State) : Reply := s.replyOk Config.identity

/-- IDENTIFY (R183). -/
def execIdentify (s : State) : Host.Outcome State Fault Refusal :=
  event (fun s => s.runCommand .identify identifyEffect) s

/-- The number of FREE slots (R184). -/
def State.freeSlots (s : State) : Nat := s.table.toList.countP Option.isNone

/-- The pinned slot as STATUS reports it (R190). -/
def State.pinnedByte (s : State) : Byte :=
  match s.engine.ctx with
  | some c => slotByte c.slot
  | none => noSlot

/-- The 24 bytes of the STATUS report after the status (R184, R190). -/
def statusReport (s : State) : List Byte :=
  wordBytes s.counters.crc ++ wordBytes s.counters.framing ++ wordBytes s.counters.gap
    ++ wordBytes s.counters.overrun ++ wordBytes s.counters.duplicate
    ++ wordBytes s.counters.busStall ++ wordBytes s.counters.holdExpiry
    ++ [natByte s.freeSlots, natByte s.freeBlocks.length, natByte s.freeBuffers.length,
        natByte s.notices.completed.length, natByte s.notices.credit, phaseByte s.engine.phase,
        s.pinnedByte, engineFlags s, s.holdLimit, s.stallLimit]

/-- STATUS: bits 1 to 7 of the flags are undefined and refused; bit 0 clears the seven counters after
they have been reported (R184, R189). -/
def statusEffect (p : List Byte) (s : State) : Reply :=
  if (byteAt p 0).extractLsb' 1 7 ≠ 0 then s.reply .badParam
  else if (byteAt p 0).getLsbD 0 then
    ({ s with counters := Counters.reset } : State).replyOk (statusReport s)
  else s.replyOk (statusReport s)

/-- STATUS (R184). -/
def execStatus (s : State) : Host.Outcome State Fault Refusal :=
  event (fun s => s.runCommand .status statusEffect) s

/-- The Command Engine takes a RESET: with a payload it is refused, without one it is a soft reset and
sends no response (R182). -/
def State.takeReset (s : State) : State :=
  match takeable s.link with
  | none => s
  | some f =>
    if f.code == commandCode .reset && !isDuplicate s.link f then
      if lengthAllowed .reset f.payload.length then s.softReset
      else s.dropHead.respond f (badLengthReply .reset)
    else s

/-- RESET (R182). -/
def execReset (s : State) : Host.Outcome State Fault Refusal := event State.takeReset s

/-- CREDIT: n of 17 or more is refused; the credit is cut at 16 (R144). -/
def creditEffect (p : List Byte) (s : State) : Reply :=
  let n := (byteAt p 0).toNat
  if Config.creditMax < n then s.reply .badParam
  else
    let credit := min Config.creditMax (s.notices.credit + n)
    ({ s with notices := { s.notices with credit := credit } } : State).replyOk [natByte credit]

/-- CREDIT (R144). -/
def execCredit (s : State) : Host.Outcome State Fault Refusal :=
  event (fun s => s.runCommand .credit creditEffect) s

/-- The engine at an ATTACH (R92). -/
def Engine.attach (e : Engine) : Engine :=
  if e.phase = .detached then { e with phase := .listen } else { e with detaching := false }

/-- ATTACH: DETACHED enters LISTEN; an attached engine loses the detaching mark (R92). -/
def attachEffect (_p : List Byte) (s : State) : Reply :=
  ({ s with engine := s.engine.attach } : State).reply .ok

/-- ATTACH (R92). -/
def execAttach (s : State) : Host.Outcome State Fault Refusal :=
  event (fun s => s.runCommand .attach attachEffect) s

/-- The engine enters DETACHED at once, nothing pinned (R93). -/
def Engine.detachNow (e : Engine) : Engine :=
  { e with phase := .detached, detaching := false, sda := .released }

/-- The table of R93. -/
def detachEffect (_p : List Byte) (s : State) : Reply :=
  match s.engine.phase with
  | .detached => s.reply .ok
  | .hold => (s.endTransaction .detach).reply .ok
  | .address => ({ s with engine := s.engine.detachNow } : State).reply .ok
  | .listen | .ignore | .recover =>
    if s.engine.detaching then s.reply .deferred
    else ({ s with engine := s.engine.detachNow } : State).reply .ok
  | .pointer | .write | .read | .readEnd =>
    ({ s with engine := { s.engine with detaching := true } } : State).reply .deferred

/-- DETACH (R93). -/
def execDetach (s : State) : Host.Outcome State Fault Refusal :=
  event (fun s => s.runCommand .detach detachEffect) s

/-- HOLDLIMIT: 0 is refused; a running hold keeps its own limit (R120). -/
def holdLimitEffect (p : List Byte) (s : State) : Reply :=
  if byteAt p 0 = 0 then s.reply .badParam
  else ({ s with holdLimit := byteAt p 0 } : State).replyOk [byteAt p 0]

/-- HOLDLIMIT (R120). -/
def execHoldLimit (s : State) : Host.Outcome State Fault Refusal :=
  event (fun s => s.runCommand .holdLimit holdLimitEffect) s

/-- STALLLIMIT: 0 and 51 or more are refused; a running timer keeps the limit it took (R160). -/
def stallLimitEffect (p : List Byte) (s : State) : Reply :=
  if byteAt p 0 = 0 ∨ Config.stallLimitMax < (byteAt p 0).toNat then s.reply .badParam
  else ({ s with stallLimit := byteAt p 0 } : State).replyOk [byteAt p 0]

/-- STALLLIMIT (R160). -/
def execStallLimit (s : State) : Host.Outcome State Fault Refusal :=
  event (fun s => s.runCommand .stallLimit stallLimitEffect) s

end Sys2Proof.Machine
end

