-- ==== Sys2Proof/Machine/EndpointTable.lean ====
section
/-! DEFINITION. The commands of the Endpoint Table and of freshness: INSTALL, ACTIVATE, QUIESCE, RESUME, RETIRE, QUERY, LOOKUP, TOUCH. -/

namespace Sys2Proof.Machine

/-! ## INSTALL (R12 to R16) -/

/-- The new address set intersects that of a record of equal specificity (R14, R32). -/
def overlaps (table : Vector (Option Record) 48) (address mask : Address) : Bool :=
  table.toList.any fun o =>
    match o with
    | some r => specificity r.mask == specificity mask && setsIntersect r.address r.mask address mask
    | none => false

/-- The slot INSTALL takes: the requested one if FREE, or the lowest-numbered FREE slot (R15). -/
def chooseSlot (s : State) (requested : Byte) : Option Slot :=
  match slotOf requested with
  | some i => if (s.record i).isNone then some i else none
  | none => (List.finRange 48).find? fun i => (s.record i).isNone

/-- The write policy of a payload R13 has accepted (R189). -/
def installPolicy (q : InstallFields) : WritePolicy := (policyOf q.policyCode).getD .deny

/-- The blocks a bank of these fields is given: the lowest-numbered free ones, ascending (R46). -/
def installBlocks (s : State) (q : InstallFields) : List BlockNo :=
  s.freeBlocks.take (blocksNeeded q.size.toNat)

/-- The content of the new record (R16, steps 2 and 3). -/
def installContent (s : State) (q : InstallFields) : Content :=
  if q.kindCode = 0 then
    .bank { size := q.size.toNat, fill := q.fill, policy := installPolicy q
            fetchOnRead := q.fetchOnRead, blocks := installBlocks s q, pointer := 0 }
  else
    .mailbox { depth := q.depth.toNat, acceptInbound := q.acceptInbound, queue := [], headFlushed := false }

/-- The new record (R16, steps 1 and 4). -/
def installRecord (s : State) (q : InstallFields) : Record where
  state := if q.activate then .live else .staged
  address := storedAddress (sevenBit q.address) (sevenBit q.mask)
  mask := sevenBit q.mask
  tag := if q.tagPresent then some q.tag else none
  interval := q.interval
  remaining := q.interval
  stale := false
  stalePolicy := if q.refuse then .refuse else .answer
  content := installContent s q

/-- The first check of R12 that fails after the length, or the slot to fill. -/
def installCheck (s : State) (q : InstallFields) : Except Status Slot :=
  if 48 ≤ q.slot.toNat ∧ q.slot ≠ noSlot then .error .badSlot
  else if installBadParam q then .error .badParam
  else if wholeSetReserved (sevenBit q.address) (sevenBit q.mask) then .error .badAddress
  else if overlaps s.table (sevenBit q.address) (sevenBit q.mask) then .error .overlap
  else
    match chooseSlot s q.slot with
    | none => .error .noSlot
    | some i =>
      if q.kindCode = 0 ∧ s.freeBlocks.length < blocksNeeded q.size.toNat then .error .noSpace
      else .ok i

/-- Fill slot `i`: the record, and for a bank its blocks and the fill byte in every window byte (R16). -/
def State.installAt (s : State) (i : Slot) (q : InstallFields) : State :=
  let t := s.setRecord i (some (installRecord s q))
  if q.kindCode = 0 then
    { t with
      freeBlocks := s.freeBlocks.drop (blocksNeeded q.size.toNat)
      store := windowWrite s.store (installBlocks s q) 0 (List.replicate q.size.toNat q.fill) }
  else t

/-- INSTALL: refused with a status and the slot byte 0xFF, or done with the slot used (R12, R16). -/
def installEffect (p : List Byte) (s : State) : Reply :=
  match installCheck s (installFields p) with
  | .error status => (s, [statusByte status, noSlot])
  | .ok i => (s.installAt i (installFields p)).replyOk [slotByte i]

/-- INSTALL (R16). -/
def execInstall (s : State) : Host.Outcome State Fault Refusal :=
  event (fun s => s.runCommand .install installEffect) s

/-! ## ACTIVATE, QUIESCE, RESUME (R18 to R20) -/

/-- STAGED to LIVE with the count reloaded; BAD_STATE otherwise (R18). -/
def activateEffect (p : List Byte) (s : State) : Reply :=
  withSlot p s fun i => withRecord s i fun r =>
    if r.state = .staged then
      (s.setRecord i (some { r.reload with state := .live })).reply .ok
    else s.reply .badState

/-- ACTIVATE (R18). -/
def execActivate (s : State) : Host.Outcome State Fault Refusal :=
  event (fun s => s.runCommand .activate activateEffect) s

/-- LIVE to QUIESCED, the count and the stale flag kept; BAD_STATE otherwise (R19). -/
def quiesceEffect (p : List Byte) (s : State) : Reply :=
  withSlot p s fun i => withRecord s i fun r =>
    if r.state = .live then
      (s.setRecord i (some { r with state := .quiesced })).reply .ok
    else s.reply .badState

/-- QUIESCE (R19). -/
def execQuiesce (s : State) : Host.Outcome State Fault Refusal :=
  event (fun s => s.runCommand .quiesce quiesceEffect) s

/-- QUIESCED to LIVE with the count reloaded; BAD_STATE otherwise (R20). -/
def resumeEffect (p : List Byte) (s : State) : Reply :=
  withSlot p s fun i => withRecord s i fun r =>
    if r.state = .quiesced then
      (s.setRecord i (some { r.reload with state := .live })).reply .ok
    else s.reply .badState

/-- RESUME (R20). -/
def execResume (s : State) : Host.Outcome State Fault Refusal :=
  event (fun s => s.runCommand .resume resumeEffect) s

/-! ## RETIRE (R21 to R23) -/

/-- RETIRE: freed at once, or deferred while pinned outside HOLD, or the hold ended with NACK and the
record freed without a notice (R21 to R23). -/
def retireEffect (p : List Byte) (s : State) : Reply :=
  withSlot p s fun i => withUsable s i fun r =>
    if s.pinned i then
      if s.engine.phase = .hold then ((s.endTransaction .retire).freeRecord i).reply .ok
      else (s.setRecord i (some { r with state := .retiring })).reply .deferred
    else (s.freeRecord i).reply .ok

/-- RETIRE (R21). -/
def execRetire (s : State) : Host.Outcome State Fault Refusal :=
  event (fun s => s.runCommand .retire retireEffect) s

/-! ## QUERY and LOOKUP (R27, R43) -/

/-- An address or a mask as a payload byte. -/
def addressByteOf (a : Address) : Byte := a.setWidth 8

/-- The kind-specific bytes 11 to 18 of a QUERY response (R190). -/
def queryContent (s : State) : Content → List Byte
  | .bank b =>
    natBytes b.size ++ [b.fill, policyByte b.policy] ++ natBytes b.pointer
      ++ [natByte b.blocks.length, natByte ((b.blocks.head?.map Fin.val).getD 0)]
  | .mailbox m =>
    [natByte m.depth, natByte m.queue.length,
     natByte ((m.queue.head?.map fun k => (s.buffer k).length).getD 0), 0, 0, 0, 0, 0]

/-- Kind code (R187). -/
def kindByte : Content → Byte
  | .bank _ => 0
  | .mailbox _ => 1

/-- The 18 bytes of a QUERY response after the status; every one 0 for a FREE slot (R27, R190). -/
def queryReport (s : State) (i : Slot) : List Byte :=
  match s.record i with
  | none => List.replicate 18 0
  | some r =>
    [stateByte (some r), kindByte r.content, addressByteOf r.address, addressByteOf r.mask,
     natByte (specificity r.mask)] ++ wordBytes (tagField r.tag)
      ++ [recordFlags r (s.pinned i), r.interval, r.remaining] ++ queryContent s r.content

/-- QUERY: allowed in every state, and nothing changes (R27). -/
def queryEffect (p : List Byte) (s : State) : Reply :=
  withSlot p s fun i => s.replyOk (queryReport s i)

/-- QUERY (R27). -/
def execQuery (s : State) : Host.Outcome State Fault Refusal :=
  event (fun s => s.runCommand .query queryEffect) s

/-- The fields of a LOOKUP response: slot, state and stale of the resolving endpoint, or 0xFF, 0, 0
(R43, R190). -/
def lookupReport (s : State) (a : Address) : List Byte :=
  match resolve s.table a with
  | none => [noSlot, 0, 0]
  | some (i, r) => [slotByte i, stateByte (some r), boolByte r.stale]

/-- LOOKUP: an address of more than 7 bits is refused; nothing changes (R43). -/
def lookupEffect (p : List Byte) (s : State) : Reply :=
  if notSevenBit (byteAt p 0) then s.reply .badParam
  else s.replyOk (lookupReport s (sevenBit (byteAt p 0)))

/-- LOOKUP (R43). -/
def execLookup (s : State) : Host.Outcome State Fault Refusal :=
  event (fun s => s.runCommand .lookup lookupEffect) s

/-! ## TOUCH (R154) -/

/-- TOUCH: a refresh of a STAGED, LIVE or QUIESCED record (R154). -/
def touchEffect (p : List Byte) (s : State) : Reply :=
  withSlot p s fun i => withUsable s i fun _ => (s.refresh i).reply .ok

/-- TOUCH (R154). -/
def execTouch (s : State) : Host.Outcome State Fault Refusal :=
  event (fun s => s.runCommand .touch touchEffect) s

end Sys2Proof.Machine
end

