-- ==== Sys2Proof/Machine/LinkEvents.lean ====
section
/-! DEFINITION. The events of the management link: characters, frames, errors, the break, and the frames on LTX. -/

namespace Sys2Proof.Machine

/-- CHARACTER_RECEIVED (R170), of the byte that `charOfBits` reads from the character's levels (R168, log 18). At the
CRC byte of a frame it does what FRAME_RECEIVED does (log 6). -/
def execCharacterReceived (value : Byte) (s : State) : Host.Outcome State Fault Refusal :=
  event (fun s => s.takeCharacter value) s

/-- The character at the CRC byte of the frame being received; elsewhere no frame ends (R172). -/
def State.takeCrc (s : State) (crc : Byte) : State :=
  match s.link.receiver with
  | .frameBody len got => if got.length < len then s else s.endFrame len got crc
  | .hunt => s
  | .frameLen => s
  | .lineBreak => s

/-- FRAME_RECEIVED (R172). -/
def execFrameReceived (crc : Byte) (s : State) : Host.Outcome State Fault Refusal :=
  event (fun s => s.takeCrc crc) s

/-- A framing error: counted, and the receiver hunts; in a break no character is taken (R169). One that
follows a soft reset in the queue is counted like any other: a DESIGN CHOICE for a character that was under way
when the reset was taken (log 22; R185). -/
def State.framingError (s : State) : State :=
  if s.link.receiver = .lineBreak then s
  else { s.setReceiver .hunt with counters := { s.counters with framing := countUp s.counters.framing } }

/-- FRAMING_ERROR (R169). -/
def execFramingError (s : State) : Host.Outcome State Fault Refusal := event State.framingError s

/-- A gap inside a frame: the frame is discarded and counted (R171). -/
def State.gapTimeout (s : State) : State :=
  match s.link.receiver with
  | .hunt => s
  | .lineBreak => s
  | .frameLen | .frameBody _ _ =>
    { s.setReceiver .hunt with counters := { s.counters with gap := countUp s.counters.gap } }

/-- GAP_TIMEOUT (R171). -/
def execGapTimeout (s : State) : Host.Outcome State Fault Refusal := event State.gapTimeout s

/-- The overflow flag that a cut notice frame carried (R146). -/
def cutOverflow : Option Sending → Bool
  | some (.notice _ overflow) => overflow
  | some (.hello _) => false
  | some (.response _) => false
  | none => false

/-- The link reset; in a break none can follow before LRX rises (R174, R146). One that follows a soft reset
in the queue is taken (log 22; R185). -/
def State.linkReset (s : State) : State :=
  if s.link.receiver = .lineBreak then s
  else
    { s with
      link := clearedLink .lineBreak s.link.hello
      notices := { s.notices with
        credit := 0
        seq := 0
        overflow := s.notices.overflow || cutOverflow s.link.sending } }

/-- LINK_RESET (R174). -/
def execLinkReset (s : State) : Host.Outcome State Fault Refusal := event State.linkReset s

/-- LRX rises after a break: the receiver hunts, and HELLO(LINK) is pending unless a HELLO is (R174, R179). -/
def State.breakEnd (s : State) : State :=
  if s.link.receiver = .lineBreak then
    { s with link := { s.link with receiver := .hunt, hello := some (s.link.hello.getD .link) } }
  else s

/-- BREAK_END (R174). -/
def execBreakEnd (s : State) : Host.Outcome State Fault Refusal := event State.breakEnd s

/-- FRAME_START (R178). -/
def execFrameStart (s : State) : Host.Outcome State Fault Refusal := event State.arbitrate s

/-- The last byte has been sent: the source releases the frame, and the arbiter decides (R178; log 5). -/
def State.frameSent (s : State) : State :=
  match s.link.sending with
  | none => s
  | some x => (s.lineIdle.releaseSent x).arbitrate

/-- FRAME_SENT (R178). -/
def execFrameSent (s : State) : Host.Outcome State Fault Refusal := event State.frameSent s

end Sys2Proof.Machine
end

