-- ==== Sys2Proof/Machine/Mailboxes.lean ====
section
/-! DEFINITION. The commands of the Mailbox Unit: POST, FLUSH. -/

namespace Sys2Proof.Machine

/-- A message takes buffer `k` and joins the tail of the queue (R102). -/
def State.postMessage (s : State) (i : Slot) (r : Record) (m : Mailbox) (k : BufferNo)
    (rest : List BufferNo) (msg : List Byte) : State :=
  ({ s with
    buffers := s.buffers.set k.val ((s.buffer k).record msg) k.isLt
    freeBuffers := rest } : State).setContent i r.reload (.mailbox { m with queue := m.queue ++ [k] })

/-- POST: BAD_SLOT, BAD_PARAM, BAD_STATE, WRONG_KIND, FULL, NO_SPACE, then the lowest-numbered free
buffer takes the message and freshness is refreshed (R101, R102). -/
def postEffect (p : List Byte) (s : State) : Reply :=
  withSlot p s fun i =>
    if byteAt p 1 = 0 ∨ Config.messageBytes < (byteAt p 1).toNat ∨ (byteAt p 1).toNat ≠ (p.drop 2).length then
      s.reply .badParam
    else withUsable s i fun r => withMailbox s r fun m =>
      if m.depth ≤ m.queue.length then s.reply .full
      else
        match s.freeBuffers with
        | [] => s.reply .noSpace
        | k :: rest => (s.postMessage i r m k rest (p.drop 2)).reply .ok

/-- POST (R102). -/
def execPost (s : State) : Host.Outcome State Fault Refusal :=
  event (fun s => s.runCommand .post postEffect) s

/-- The served message of an open read of slot `i`, if it has one (R110). -/
def State.servedMessage (s : State) (i : Slot) : Option BufferNo :=
  match s.engine.ctx with
  | some c =>
    if c.slot = i ∧ c.direction = .read then
      match c.served with
      | .message k => some k
      | .unfixed => none
      | .empty => none
    else none
  | none => none

/-- Every message leaves the queue and its buffer is free (R111). -/
def State.flushAll (s : State) (i : Slot) (r : Record) (m : Mailbox) : State :=
  { s.setContent i r (.mailbox { m with queue := [] }) with
    freeBuffers := poolReturn m.queue s.freeBuffers }

/-- Every message but the served one leaves, and the served one is marked (R112). -/
def State.flushAround (s : State) (i : Slot) (r : Record) (m : Mailbox) (k : BufferNo) : State :=
  { s.setContent i r (.mailbox { m with queue := m.queue.filter (· == k), headFlushed := true }) with
    freeBuffers := poolReturn (m.queue.filter (· != k)) s.freeBuffers }

/-- FLUSH: BAD_SLOT, BAD_STATE, WRONG_KIND, then the number removed at once and whether the served
message was marked (R109 to R112). -/
def flushEffect (p : List Byte) (s : State) : Reply :=
  withSlot p s fun i => withRecord s i fun r => withMailbox s r fun m =>
    match s.servedMessage i with
    | none => (s.flushAll i r m).replyOk [natByte m.queue.length, boolByte false]
    | some k => (s.flushAround i r m k).replyOk [natByte (m.queue.filter (· != k)).length, boolByte true]

/-- FLUSH (R110). -/
def execFlush (s : State) : Host.Outcome State Fault Refusal :=
  event (fun s => s.runCommand .flush flushEffect) s

end Sys2Proof.Machine
end

