-- ==== Sys2Proof/Machine/RegisterStore.lean ====
section
/-! DEFINITION. The commands of the Register Store: LOAD, READ, FILL. -/

namespace Sys2Proof.Machine

/-- LOAD: BAD_SLOT, BAD_STATE, WRONG_KIND, OUT_OF_RANGE, then BUSY, HELD or OK (R51 to R53). -/
def loadEffect (p : List Byte) (s : State) : Reply :=
  withSlot p s fun i => withUsable s i fun r => withBank s r fun b =>
    if b.size < (byteAt p 1).toNat + (p.drop 2).length then s.reply .outOfRange
    else s.loadBank i b (byteAt p 1).toNat (p.drop 2) .ok .held

/-- LOAD (R52). -/
def execLoad (s : State) : Host.Outcome State Fault Refusal :=
  event (fun s => s.runCommand .load loadEffect) s

/-- READ: BAD_SLOT, BAD_PARAM, BAD_STATE, WRONG_KIND, OUT_OF_RANGE, then the bytes as they stand in the
store; nothing changes (R55). -/
def readEffect (p : List Byte) (s : State) : Reply :=
  withSlot p s fun i =>
    if byteAt p 2 = 0 ∨ Config.transferBytes < (byteAt p 2).toNat then s.reply .badParam
    else withRecord s i fun r => withBank s r fun b =>
      if b.size < (byteAt p 1).toNat + (byteAt p 2).toNat then s.reply .outOfRange
      else s.replyOk (windowRead s.store b.blocks (byteAt p 1).toNat (byteAt p 2).toNat)

/-- READ (R55). -/
def execRead (s : State) : Host.Outcome State Fault Refusal :=
  event (fun s => s.runCommand .read readEffect) s

/-- The context of the open FETCH hold on slot `i`, if there is one (R123). -/
def State.fetchHold (s : State) (i : Slot) : Option Context :=
  match s.engine.ctx with
  | some c => if c.slot = i ∧ s.engine.phase = .hold ∧ c.holdReason = some .fetch then some c else none
  | none => none

/-- A FILL answers the FETCH hold: its bytes are written at once, the endpoint is refreshed, the hold
ends with ACK and the read goes on (R123). -/
def State.answerFetch (s : State) (i : Slot) (b : Bank) (c : Context) (offset : Nat) (data : List Byte) : State :=
  ((s.writeWindow b offset data).refresh i).endHoldWithAck c .read

/-- FILL: BAD_SLOT, BAD_STATE, WRONG_KIND, OUT_OF_RANGE, then it answers the FETCH hold, or is a LOAD
answered LATE or BUSY (R122 to R124). -/
def fillEffect (p : List Byte) (s : State) : Reply :=
  withSlot p s fun i => withUsable s i fun r => withBank s r fun b =>
    if b.size < (byteAt p 1).toNat + (p.drop 2).length then s.reply .outOfRange
    else
      match s.fetchHold i with
      | some c => (s.answerFetch i b c (byteAt p 1).toNat (p.drop 2)).reply .ok
      | none => s.loadBank i b (byteAt p 1).toNat (p.drop 2) .late .late

/-- FILL (R122). -/
def execFill (s : State) : Host.Outcome State Fault Refusal :=
  event (fun s => s.runCommand .fill fillEffect) s

end Sys2Proof.Machine
end

