-- ==== Sys2Proof/Machine/ResetEvents.lean ====
section
/-! DEFINITION. The hardware reset: its beginning and its end. -/

namespace Sys2Proof.Machine

/-- Every block at its hardware-reset value, the limits too (R120, R160, R181). -/
def State.hardClear (s : State) : State :=
  { s.clearBlocks with holdLimit := Config.holdLimitReset, stallLimit := Config.stallLimitReset }

/-- RSTn falls or VDD rises: the lines are released, LTX is cut, READY is low, every block is clear,
and no HELLO is pending yet (R181; log 14). -/
def State.beginHardReset (s : State) : State :=
  { s.hardClear with hardReset := true, link := clearedLink .hunt none }

/-- HARDWARE_RESET (R181). -/
def execHardwareReset (s : State) : Host.Outcome State Fault Refusal := .next s.beginHardReset

/-- Bit periods in a second at a rate (R168). -/
def Baud.bitsPerSecond : Baud → Nat
  | .b115200 => 115200
  | .b230400 => 230400
  | .b460800 => 460800
  | .b921600 => 921600

/-- The rate of the straps (R168). -/
def strapBaud (bsel1 bsel0 : Bool) : Baud :=
  match bsel1, bsel0 with
  | false, false => .b115200
  | false, true => .b230400
  | true, false => .b460800
  | true, true => .b921600

/-- The reset ends: the rate of the straps, READY high, HELLO(HARD) pending, the receiver in HUNT, or in
BREAK if LRX is low (R168, R181). -/
def State.endHardReset (s : State) (bsel1 bsel0 lrxHigh : Bool) : State :=
  if s.hardReset then
    { s.hardClear with
      hardReset := false
      baud := strapBaud bsel1 bsel0
      link := clearedLink (if lrxHigh then .hunt else .lineBreak) (some .hard) }
  else s

/-- HARDWARE_RESET_END (R181). -/
def execHardwareResetEnd (bsel1 bsel0 lrxHigh : Bool) (s : State) : Host.Outcome State Fault Refusal :=
  .next (s.endHardReset bsel1 bsel0 lrxHigh)

end Sys2Proof.Machine
end

