-- ==== Sys2Proof/Machine/TimerEvents.lean ====
section
/-! DEFINITION. The expiries: of a hold, of the stall timer, of a freshness countdown, and its ticks. -/

namespace Sys2Proof.Machine

/-- The tag of the record in slot `i`, absent for a FREE slot (R4). -/
def State.tagOf (s : State) (i : Slot) : Option Word16 :=
  match s.record i with
  | some r => r.tag
  | none => none

/-- A hold expires: the unpin with NACK, HOLD_EXPIRED with the slot, tag and reason it had, the counter,
IGNORE; nothing when no hold timer runs (R127, R128). -/
def State.holdExpiry (s : State) : State :=
  match s.engine.ctx with
  | none => s
  | some c =>
    match c.holdReason with
    | none => s
    | some reason =>
      if s.engine.phase = .hold ∧ s.engine.holdTimer.isSome then
        let t := (s.endTransaction .expiry).raise
          { slot := c.slot, tag := s.tagOf c.slot, body := .holdExpired reason }
        { t with counters := { t.counters with holdExpiry := countUp t.counters.holdExpiry } }
      else s

/-- HOLD_EXPIRY (R127). -/
def execHoldExpiry (s : State) : Host.Outcome State Fault Refusal := event State.holdExpiry s

/-- A transaction is abandoned: SDA released, the unpin, BUS_STALL with the slot, tag and phase it had,
the counter, RECOVER or under the detaching mark DETACHED; nothing when no stall timer runs (R163, R164). -/
def State.abandonment (s : State) : State :=
  match s.engine.ctx with
  | none => s
  | some c =>
    if phaseSupervised s.engine.phase && s.engine.stallTimer.isSome then
      let t := (s.endTransaction .abandonment).raise
        { slot := c.slot, tag := s.tagOf c.slot, body := .busStall s.engine.phase }
      { t with counters := { t.counters with busStall := countUp t.counters.busStall } }
    else s

/-- ABANDONMENT (R163). -/
def execAbandonment (s : State) : Host.Outcome State Fault Refusal := event State.abandonment s

/-- 50 ms of running time end: the count falls by one, and at 0 the endpoint expires in the same event
(R152; log 7). -/
def State.freshnessTick (s : State) (slot : Nat) : State :=
  if h : slot < 48 then
    match s.record ⟨slot, h⟩ with
    | none => s
    | some r =>
      if r.counting then
        if r.remaining = 1 then s.expire ⟨slot, h⟩ r
        else s.setRecord ⟨slot, h⟩ (some { r with remaining := r.remaining - 1 })
      else s
  else s

/-- FRESHNESS_TICK (R152). -/
def execFreshnessTick (slot : Nat) (s : State) : Host.Outcome State Fault Refusal :=
  event (fun s => s.freshnessTick slot) s

/-- The last unit of the count of a LIVE, supervised endpoint that is not stale yet has run (R155; log 7). -/
def Record.expiring (r : Record) : Bool :=
  r.state == .live && r.interval != 0 && !r.stale && (r.remaining == 0 || r.remaining == 1)

/-- The count reaches 0: the endpoint expires (R155). -/
def State.freshnessExpiry (s : State) (slot : Nat) : State :=
  if h : slot < 48 then
    match s.record ⟨slot, h⟩ with
    | none => s
    | some r => if r.expiring then s.expire ⟨slot, h⟩ r else s
  else s

/-- FRESHNESS_EXPIRY (R155). -/
def execFreshnessExpiry (slot : Nat) (s : State) : Host.Outcome State Fault Refusal :=
  event (fun s => s.freshnessExpiry slot) s

end Sys2Proof.Machine
end

