-- ==== Sys2Proof/Machine/Dispatch.lean ====
section
/-! DEFINITION. What each command or event does to everything but the queue of waiting ones: one arm per row of spec/opcode_table.json. -/

namespace Sys2Proof.Machine

def exec (i : Instr) (s : State) : Host.Outcome State Fault Refusal :=
  match i with
  | .identify => Sys2Proof.Machine.execIdentify s
  | .status => Sys2Proof.Machine.execStatus s
  | .reset => Sys2Proof.Machine.execReset s
  | .credit => Sys2Proof.Machine.execCredit s
  | .attach => Sys2Proof.Machine.execAttach s
  | .detach => Sys2Proof.Machine.execDetach s
  | .holdLimit => Sys2Proof.Machine.execHoldLimit s
  | .stallLimit => Sys2Proof.Machine.execStallLimit s
  | .install => Sys2Proof.Machine.execInstall s
  | .activate => Sys2Proof.Machine.execActivate s
  | .quiesce => Sys2Proof.Machine.execQuiesce s
  | .resume => Sys2Proof.Machine.execResume s
  | .retire => Sys2Proof.Machine.execRetire s
  | .query => Sys2Proof.Machine.execQuery s
  | .lookup => Sys2Proof.Machine.execLookup s
  | .touch => Sys2Proof.Machine.execTouch s
  | .load => Sys2Proof.Machine.execLoad s
  | .read => Sys2Proof.Machine.execRead s
  | .fill => Sys2Proof.Machine.execFill s
  | .post => Sys2Proof.Machine.execPost s
  | .flush => Sys2Proof.Machine.execFlush s
  | .unknownCommand => Sys2Proof.Machine.execUnknownCommand s
  | .duplicate => Sys2Proof.Machine.execDuplicate s
  | .frameReceived crc => Sys2Proof.Machine.execFrameReceived crc s
  | .framingError => Sys2Proof.Machine.execFramingError s
  | .gapTimeout => Sys2Proof.Machine.execGapTimeout s
  | .linkReset => Sys2Proof.Machine.execLinkReset s
  | .breakEnd => Sys2Proof.Machine.execBreakEnd s
  | .frameStart => Sys2Proof.Machine.execFrameStart s
  | .frameSent => Sys2Proof.Machine.execFrameSent s
  | .hardwareReset => Sys2Proof.Machine.execHardwareReset s
  | .hardwareResetEnd bsel1 bsel0 lrxHigh => Sys2Proof.Machine.execHardwareResetEnd bsel1 bsel0 lrxHigh s
  | .startCondition => Sys2Proof.Machine.execStartCondition s
  | .stopCondition => Sys2Proof.Machine.execStopCondition s
  | .addressByte value => Sys2Proof.Machine.execAddressByte value s
  | .pointerByte value => Sys2Proof.Machine.execPointerByte value s
  | .bankWriteByte value => Sys2Proof.Machine.execBankWriteByte value s
  | .mailboxWriteByte value => Sys2Proof.Machine.execMailboxWriteByte value s
  | .readByteDrive => Sys2Proof.Machine.execReadByteDrive s
  | .readByteAcknowledge ack => Sys2Proof.Machine.execReadByteAcknowledge ack s
  | .holdExpiry => Sys2Proof.Machine.execHoldExpiry s
  | .abandonment => Sys2Proof.Machine.execAbandonment s
  | .freshnessTick slot => Sys2Proof.Machine.execFreshnessTick slot s
  | .freshnessExpiry slot => Sys2Proof.Machine.execFreshnessExpiry slot s
  | .characterReceived value => Sys2Proof.Machine.execCharacterReceived value s
  | .sclEdge edge => Sys2Proof.Machine.execSclEdge edge s

end Sys2Proof.Machine
end

