-- ==== Sys2Proof/Safety.lean ====
section
/-! DEFINITION. What claims are stated in: when the Command Engine takes a command, the link after an answer, and the laws of the device that every step keeps. -/

namespace Sys2Proof.Machine

/-! ## Taking a command (R175, R176, R188) -/

/-- The step of the table that executes a command of this code. -/
def commandInstr : Command → Instr
  | .identify => .identify
  | .status => .status
  | .reset => .reset
  | .credit => .credit
  | .attach => .attach
  | .detach => .detach
  | .holdLimit => .holdLimit
  | .stallLimit => .stallLimit
  | .install => .install
  | .activate => .activate
  | .quiesce => .quiesce
  | .resume => .resume
  | .retire => .retire
  | .query => .query
  | .lookup => .lookup
  | .touch => .touch
  | .load => .load
  | .read => .read
  | .fill => .fill
  | .post => .post
  | .flush => .flush

/-- The Command Engine can take the frame `f`: the part is not in reset, the Response Queue has room
and `f` is at the inbox's head (R175). -/
abbrev Takeable (s : State) (f : Frame) : Prop :=
  s.hardReset = false ∧ s.link.responses.length < 4 ∧ s.link.inbox.head? = some f

/-- `f` is no duplicate (R176). -/
abbrev Fresh (s : State) (f : Frame) : Prop := s.link.cache.map CacheEntry.seq ≠ some f.seq

/-- The Command Engine takes `f` as a command `c` with a payload of an allowed length (R175, R176, R188). -/
abbrev Takes (s : State) (c : Command) (f : Frame) : Prop :=
  Takeable s f ∧ Fresh s f ∧ f.code = commandCode c ∧ lengthAllowed c f.payload.length = true

/-- The command's payload begins with the number of slot `i` (R189). -/
abbrev Names (f : Frame) (i : Slot) : Prop := (byteAt f.payload 0).toNat = i.val

/-- The link after `f` has been executed and answered with the payload `reply`: the frame has left the
inbox, the response has joined the Response Queue and is the cached one (R175 to R177). -/
def answered (l : Link) (f : Frame) (reply : List Byte) : Link :=
  { l with
    inbox := l.inbox.tail
    responses := l.responses ++ [{ seq := f.seq, code := f.code + 0x80, payload := reply }]
    cache := some { seq := f.seq, response := { seq := f.seq, code := f.code + 0x80, payload := reply } } }

/-- The commands whose payload begins with a slot and which answer BAD_SLOT for one of 48 or more: all
that name a slot but INSTALL (R11, R51, R55, R101, R109, R122, R154). -/
def namesSlot : Command → Bool
  | .activate | .quiesce | .resume | .retire | .query | .touch => true
  | .load | .read | .fill | .post | .flush => true
  | .identify | .status | .reset | .credit | .attach | .detach | .holdLimit | .stallLimit => false
  | .install | .lookup => false

/-- The table of R11: the states in which a command that names a slot is allowed, `none` for FREE. -/
def stateAllows (c : Command) (o : Option EndpointState) : Bool :=
  match c with
  | .activate => o == some .staged
  | .quiesce => o == some .live
  | .resume => o == some .quiesced
  | .retire | .touch | .load | .fill | .post =>
    o == some .staged || o == some .live || o == some .quiesced
  | .read | .flush => o.isSome
  | .identify | .status | .reset | .credit | .attach | .detach | .holdLimit | .stallLimit => true
  | .install | .query | .lookup => true

/-- The checks READ and POST make between BAD_SLOT and BAD_STATE pass: READ's count is 1 to 48, POST's is
1 to 32 and equals the number of message bytes (R55, R101). -/
def countFits (c : Command) (f : Frame) : Prop :=
  (c = .read → 1 ≤ (byteAt f.payload 2).toNat ∧ (byteAt f.payload 2).toNat ≤ 48) ∧
  (c = .post → 1 ≤ (byteAt f.payload 1).toNat ∧ (byteAt f.payload 1).toNat ≤ 32 ∧
    (byteAt f.payload 1).toNat + 2 = f.payload.length)

/-! ## INSTALL (R12 to R15) -/

/-- The address set of an INSTALL intersects that of a record of equal specificity: they share an
address (R14, R32). -/
def SharesAddress (s : State) (q : InstallFields) : Prop :=
  ∃ j r a, s.record j = some r ∧ specificity r.mask = specificity (sevenBit q.mask) ∧
    inAddressSet r.address r.mask a = true ∧
    inAddressSet (storedAddress (sevenBit q.address) (sevenBit q.mask)) (sevenBit q.mask) a = true

/-- The address set holds an address outside the reserved ranges (R14). -/
def HasUsableAddress (q : InstallFields) : Prop :=
  ∃ a, inAddressSet (storedAddress (sevenBit q.address) (sevenBit q.mask)) (sevenBit q.mask) a = true ∧
    0x07 < a.toNat ∧ a.toNat < 0x78

/-- Slot `i` is the one INSTALL fills: the requested one, FREE, or for 0xFF the lowest-numbered FREE slot (R15). -/
def Chosen (s : State) (q : InstallFields) (i : Slot) : Prop :=
  s.record i = none ∧
  (q.slot.toNat = i.val ∨ (q.slot = 0xFF ∧ ∀ j, j < i → s.record j ≠ none))

/-- Every check of INSTALL passes, and it fills slot `i` (R12 to R15). -/
def Accepts (s : State) (q : InstallFields) (i : Slot) : Prop :=
  installBadParam q = false ∧ HasUsableAddress q ∧ ¬SharesAddress s q ∧ Chosen s q i ∧
  (q.kindCode = 0 → blocksNeeded q.size.toNat ≤ s.freeBlocks.length)

/-! ## The end of a transaction -/

/-- The engine after the end of a transaction: phase `p`, detaching mark `mark`, nothing pinned, no
timer running, neither line driven (R69, R77, R78, R96). -/
def endedEngine (p : Phase) (mark : Bool) : Engine where
  phase := p
  detaching := mark
  ctx := none
  holdTimer := none
  stallTimer := none
  stretching := false
  sda := .released

/-- The value the held entries for slot `i` leave in window byte `p`: that of the latest entry that
covers it, if any does (R58). -/
def heldByte (i : Slot) (p : Nat) : List HeldLoad → Option Byte
  | [] => none
  | h :: rest =>
    match heldByte i p rest with
    | some v => some v
    | none =>
      if h.slot = i ∧ h.offset ≤ p ∧ p < h.offset + h.data.length then h.data[p - h.offset]? else none

/-! ## Laws of the Bus Target Engine -/

/-- The context exists exactly in the phases that pin, each timer runs exactly in its phases, a hold
has a reason, a context reads in READ, READ_END and a FETCH hold and writes in POINTER, WRITE and a SPACE
hold, and the detaching mark stands only in ADDRESS or in an open transaction past its address (R39, R72 to
R75, R96, R119, R129, R161). -/
def EngineLaw (s : State) : Prop :=
  s.engine.ctx.isSome = phasePins s.engine.phase ∧
  s.engine.holdTimer.isSome = (s.engine.phase == .hold) ∧
  s.engine.stallTimer.isSome = phaseSupervised s.engine.phase ∧
  (∀ c, s.engine.ctx = some c → c.holdReason.isSome = (s.engine.phase == .hold)) ∧
  (∀ c, s.engine.ctx = some c →
    s.engine.phase = .read ∨ s.engine.phase = .readEnd ∨ c.holdReason = some .fetch → c.direction = .read) ∧
  (∀ c, s.engine.ctx = some c →
    s.engine.phase = .pointer ∨ s.engine.phase = .write ∨ c.holdReason = some .space →
      c.direction = .write) ∧
  (s.engine.detaching = true → s.engine.phase = .address ∨ phaseSupervised s.engine.phase = true)

/-- The part pulls SDA low, and has an ACK to give, only in POINTER, WRITE and READ, and it drives read bits only
in READ; a read byte has at most the 16 edges of its eight bits; and SCL is driven low only in HOLD (R68 to R70,
R72, the phases' table of 4.2). -/
def LineLaw (s : State) : Prop :=
  (s.sdaDriven = true → s.engine.phase = .pointer ∨ s.engine.phase = .write ∨ s.engine.phase = .read) ∧
  (∀ stage, s.engine.sda = .ack stage →
    s.engine.phase = .pointer ∨ s.engine.phase = .write ∨ s.engine.phase = .read) ∧
  (s.engine.sda.driving = true → s.engine.phase = .read) ∧
  (∀ source value edges, s.engine.sda = .data source value edges → edges ≤ 16) ∧
  (s.sclHeldLow = true → s.engine.phase = .hold)

/-! ## Laws of the Notice Queue (R136, R143) -/

/-- The open transaction's context holds a reservation (R75). -/
def State.contextReserved (s : State) : Bool :=
  match s.engine.ctx with
  | some c => c.reserved
  | none => false

/-- Completed notices and reservation never exceed 32, data notices and reservation 24, a reservation
exists only while the transaction that made it is open, and the credit is 0 to 16 (R136, R143). -/
def NoticeLaw (s : State) : Prop :=
  s.notices.completed.length + s.notices.reservation.toNat ≤ 32 ∧
  s.notices.completed.countP Notice.isData + s.notices.reservation.toNat ≤ 24 ∧
  s.notices.reservation = s.contextReserved ∧
  s.notices.credit ≤ 16

/-! ## Laws of the Register Store -/

/-- The blocks a slot's record owns (R45). -/
def State.blocksOf (s : State) (i : Slot) : List BlockNo :=
  match s.record i with
  | some r =>
    match r.content with
    | .bank b => b.blocks
    | .mailbox _ => []
  | none => []

/-- Each of the 128 blocks is either in the Free Block Pool or in the block list of exactly one BANK
that is not FREE, once (R45). -/
def BlockLaw (s : State) : Prop :=
  s.freeBlocks.Pairwise (· < ·) ∧
  (∀ i, (s.blocksOf i).Nodup) ∧
  (∀ i k, k ∈ s.blocksOf i → k ∉ s.freeBlocks) ∧
  (∀ i j k, k ∈ s.blocksOf i → k ∈ s.blocksOf j → i = j) ∧
  (∀ k, k ∈ s.freeBlocks ∨ ∃ i, k ∈ s.blocksOf i)

/-- The Update Hold holds at most 4 entries, every one for the pinned endpoint, and so is empty when
nothing is pinned (R57). -/
def HoldLaw (s : State) : Prop :=
  s.updateHold.length ≤ 4 ∧ ∀ h ∈ s.updateHold, s.pinned h.slot = true

/-- Every held entry has 1 to 48 data bytes, is for a bank, and lies within its window (R51, R57). -/
def HeldRangeLaw (s : State) : Prop :=
  ∀ h ∈ s.updateHold, 1 ≤ h.data.length ∧ h.data.length ≤ 48 ∧
    ∃ r b, s.record h.slot = some r ∧ r.content = .bank b ∧ h.offset + h.data.length ≤ b.size

/-! ## Laws of the records -/

/-- The ranges of a bank's fields: size 1 to 256, as many blocks as the size needs, and the bus pointer
between 0 and the size (R6, R81). -/
def Bank.ranges (b : Bank) : Prop :=
  1 ≤ b.size ∧ b.size ≤ 256 ∧ b.blocks.length = (b.size + 15) / 16 ∧ b.pointer ≤ b.size

/-- The ranges of a mailbox's fields: depth 1 to 8, and no more messages than the depth limit (R7, R100). -/
def Mailbox.ranges (m : Mailbox) : Prop := 1 ≤ m.depth ∧ m.depth ≤ 8 ∧ m.queue.length ≤ m.depth

/-- The ranges of a record's fields (R2, R6, R7, R151): masked address bits are stored 0, the remaining
count is at most the interval, and an unsupervised record is never stale. -/
def Record.ranges (r : Record) : Prop :=
  r.address &&& r.mask = 0 ∧ r.remaining.toNat ≤ r.interval.toNat ∧
  (r.interval = 0 → r.stale = false) ∧
  (match r.content with
    | .bank b => b.ranges
    | .mailbox m => m.ranges)

/-- Every record that is not FREE has its fields in their ranges. -/
def RecordLaw (s : State) : Prop := ∀ i r, s.record i = some r → r.ranges

/-- A supervised record is stale exactly while its remaining count is 0 (R151, R153, R155). -/
def FreshnessLaw (s : State) : Prop :=
  ∀ i r, s.record i = some r → r.interval ≠ 0 → (r.stale = true ↔ r.remaining = 0)

/-- No two records that are not FREE and have equal specificity have intersecting address sets (R32). -/
def OverlapLaw (s : State) : Prop :=
  ∀ i j r q, s.record i = some r → s.record j = some q → i ≠ j →
    specificity r.mask = specificity q.mask → setsIntersect r.address r.mask q.address q.mask = false

/-- A pinned endpoint is not FREE and not STAGED, one in a hold is not RETIRING, and a record is RETIRING
only while it is the pinned endpoint (R10, R18, R22, R23). -/
def PinLaw (s : State) : Prop :=
  (∀ c, s.engine.ctx = some c → ∃ r, s.record c.slot = some r ∧ r.state ≠ .staged ∧
    (s.engine.phase = .hold → r.state ≠ .retiring)) ∧
  (∀ i r, s.record i = some r → r.state = .retiring → s.pinned i = true)

/-! ## Laws of the Mailbox Unit -/

/-- The buffers a slot's outbound queue holds (R98). -/
def State.queueOf (s : State) (i : Slot) : List BufferNo :=
  match s.record i with
  | some r =>
    match r.content with
    | .bank _ => []
    | .mailbox m => m.queue
  | none => []

/-- Each of the 64 buffers is either free or in the queue of exactly one MAILBOX that is not FREE, once
(R98). -/
def BufferLaw (s : State) : Prop :=
  s.freeBuffers.Pairwise (· < ·) ∧
  (∀ i, (s.queueOf i).Nodup) ∧
  (∀ i k, k ∈ s.queueOf i → k ∉ s.freeBuffers) ∧
  (∀ i j k, k ∈ s.queueOf i → k ∈ s.queueOf j → i = j) ∧
  (∀ k, k ∈ s.freeBuffers ∨ ∃ i, k ∈ s.queueOf i)

/-- Only a read has a served message, and it is the head of the pinned mailbox's queue (R104). -/
def ServedLaw (s : State) : Prop :=
  ∀ c k, s.engine.ctx = some c → c.served = .message k →
    c.direction = .read ∧ (s.queueOf c.slot).head? = some k

/-- Every buffer has 32 bytes, and a buffer in a queue records a message of 1 to 32 bytes (R98). -/
def MessageLaw (s : State) : Prop :=
  (∀ k, (s.buffer k).bytes.length = 32) ∧
  ∀ i k, k ∈ s.queueOf i → 1 ≤ (s.buffer k).length ∧ (s.buffer k).length ≤ 32

/-- A mailbox carries the head-flushed mark only while a read of it with a served message is open (R100,
R112). -/
def MarkLaw (s : State) : Prop :=
  ∀ i r m, s.record i = some r → r.content = .mailbox m → m.headFlushed = true →
    ∃ c k, s.engine.ctx = some c ∧ c.slot = i ∧ c.direction = .read ∧ c.served = .message k

/-! ## Laws of the link -/

/-- The inbox and the Response Queue hold at most 4 frames each, and what is on LTX is still held by its
source: a pending HELLO, the Response Queue's head, or a completed notice (R173, R177 to R179, R145). -/
def LinkLaw (s : State) : Prop :=
  s.link.inbox.length ≤ 4 ∧ s.link.responses.length ≤ 4 ∧
  (match s.link.sending with
    | none => True
    | some (.hello _) => s.link.hello.isSome = true
    | some (.response f) => s.link.responses.head? = some f
    | some (.notice _ _) => s.notices.completed ≠ [])

/-! ## What INSTALL fixes (R8) -/

/-- The fields that keep the values INSTALL gave them until the record is FREE again (R8). -/
def SameFixedFields (r q : Record) : Prop :=
  q.address = r.address ∧ q.mask = r.mask ∧ q.tag = r.tag ∧ q.interval = r.interval ∧
  q.stalePolicy = r.stalePolicy ∧
  (match r.content, q.content with
    | .bank b, .bank d =>
      d.size = b.size ∧ d.fill = b.fill ∧ d.policy = b.policy ∧ d.fetchOnRead = b.fetchOnRead ∧
      d.blocks = b.blocks
    | .mailbox m, .mailbox n => n.depth = m.depth ∧ n.acceptInbound = m.acceptInbound
    | _, _ => False)

/-! ## A safe run -/

/-- A run is safe when the laws of the device hold in its state. -/
def Lawful (s : State) : Prop :=
  EngineLaw s ∧ LineLaw s ∧ NoticeLaw s ∧ s.store.wf = true ∧ BlockLaw s ∧ HoldLaw s ∧ RecordLaw s ∧
  OverlapLaw s ∧ PinLaw s ∧ BufferLaw s ∧ ServedLaw s ∧ LinkLaw s ∧ HeldRangeLaw s ∧ FreshnessLaw s ∧
  MessageLaw s ∧ MarkLaw s

end Sys2Proof.Machine
end

