-- ==== Sys2Proof/Certificates/Slice0/Obligations.lean ====
section
/-! DEFINITION. The statements for the provers: what each command and event does, in which states, and the laws every step keeps. -/

open Sys2Proof Sys2Proof.Machine

/-! ## Steps -/

/-- A step takes the command at the front of the queue and runs it with the queue's rest; on an empty
queue the part idles. The queue is the model's (log 3). -/
def Obligations.StepRunsTheFrontOfTheQueue : Prop :=
  (∀ (s : State) (c : Instr) (rest : List Instr), s.pending = c :: rest →
    step s = exec c { s with pending := rest }) ∧
  (∀ s : State, s.pending = [] → step s = .next s)

/-- Every command and event answers a next state, in every state, and leaves the queue of waiting
commands as it is. No meaning stops (log 16). -/
def Obligations.EveryEventCompletesAndKeepsTheQueue : Prop :=
  ∀ (c : Instr) (s : State), ∃ t, exec c s = .next t ∧ t.pending = s.pending

/-! ## The Command Engine -/

/-- R188: a frame whose CODE is no command code is answered UNKNOWN_COMMAND, and one whose payload
length its command does not allow BAD_LENGTH (INSTALL with the slot byte 0xFF); nothing but the link
changes, and the response is queued and cached. -/
def Obligations.GenericChecksRefuseTheFrame : Prop :=
  (∀ (s : State) (f : Frame), Takeable s f → Fresh s f → isCommandCode f.code = false →
    exec .unknownCommand s = .next { s with link := answered s.link f [0x10] }) ∧
  (∀ (s : State) (c : Command) (f : Frame), Takeable s f → Fresh s f → f.code = commandCode c →
    lengthAllowed c f.payload.length = false →
    exec (commandInstr c) s = .next { s with
      link := answered s.link f (if c = .install then [0x11, 0xFF] else [0x11]) })

/-- R11 and the checks of 3.3, 3.4, 5.3, 5.6, 6.2 and 8.3: a command that names a slot answers BAD_SLOT
for 48 or more, and BAD_STATE in a state the table of R11 does not allow; nothing but the link changes. -/
def Obligations.BadSlotAndBadStateAreRefused : Prop :=
  (∀ (s : State) (c : Command) (f : Frame), namesSlot c = true → Takes s c f →
    48 ≤ (byteAt f.payload 0).toNat →
    exec (commandInstr c) s = .next { s with link := answered s.link f [0x13] }) ∧
  (∀ (s : State) (c : Command) (f : Frame) (i : Slot), namesSlot c = true → Takes s c f → Names f i →
    countFits c f → stateAllows c ((s.record i).map Record.state) = false →
    exec (commandInstr c) s = .next { s with link := answered s.link f [0x14] })

/-- A command answered with a refusal (a status of 0x10 or more) changes nothing but the link: the frame
has left the inbox and its response is queued and cached (R11). -/
def Obligations.ARefusedCommandChangesNothing : Prop :=
  ∀ (s t : State) (c : Command) (f : Frame) (reply : List Byte), Takes s c f →
    exec (commandInstr c) s = .next t → t.link = answered s.link f reply →
    0x10 ≤ (reply.headD 0).toNat →
    t = { s with link := answered s.link f reply }

/-- A duplicate is answered with the cached response, unchanged, whatever its CODE and payload; the
duplicate counter rises, saturating, the cache stays, and nothing else changes (R176). -/
def Obligations.ADuplicateIsAnsweredFromTheCache : Prop :=
  ∀ (s : State) (f : Frame) (e : CacheEntry), Takeable s f → s.link.cache = some e → e.seq = f.seq →
    exec .duplicate s = .next { s with
      link := { s.link with
        inbox := s.link.inbox.tail
        responses := s.link.responses ++ [e.response] }
      counters := { s.counters with
        duplicate := if s.counters.duplicate = 0xFFFF then 0xFFFF else s.counters.duplicate + 1 } }

/-- Every event keeps the cache, but for a reset of the link of any kind, which may clear it, and the
execution of a frame, which records the SEQ of the frame taken and the response it queues. So no two
consecutively executed command frames carry the same SEQ: when a step of the Command Engine other than
DUPLICATE changes the state while the cache is valid, the cache is valid with another SEQ afterwards, or a
soft reset has made it invalid (R176). -/
def Obligations.ConsecutiveCommandsDifferInSeq : Prop :=
  (∀ (i : Instr) (s t : State), exec i s = .next t →
    t.link.cache = s.link.cache ∨
    (t.link.cache = none ∧ (i = .reset ∨ i = .linkReset ∨ i = .hardwareReset ∨
      ∃ bsel1 bsel0 lrxHigh, i = .hardwareResetEnd bsel1 bsel0 lrxHigh)) ∨
    ∃ f d, Takeable s f ∧ Fresh s f ∧ (i = .unknownCommand ∨ ∃ c, i = commandInstr c) ∧
      t.link.cache = some d ∧ d.seq = f.seq ∧ t.link.responses = s.link.responses ++ [d.response]) ∧
  (∀ (s t : State) (e : CacheEntry), s.link.cache = some e →
    (∀ c : Command, exec (commandInstr c) s = .next t → t ≠ s →
      (c = .reset ∧ t.link.cache = none) ∨ ∃ d, t.link.cache = some d ∧ d.seq ≠ e.seq) ∧
    (exec .unknownCommand s = .next t → t ≠ s → ∃ d, t.link.cache = some d ∧ d.seq ≠ e.seq))

/-! ## Device and link commands -/

/-- IDENTIFY reports family code 0x0748, revision 0x10, 48 slots, 128 blocks, 64 buffers and 32 notice
entries. STATUS refuses an undefined flag; otherwise it reports counters, pools, Notice Queue, engine and
limits as they stand, and with the clear flag sets the seven counters to 0 afterwards. Nothing else but the
link changes (R183, R184, R190). That the engine flags' bits 3 to 7 are 0 is the model's choice (log 23). -/
def Obligations.IdentifyAndStatusReport : Prop :=
  (∀ (s : State) (f : Frame), Takes s .identify f →
    exec .identify s = .next { s with
      link := answered s.link f [0x00, 0x48, 0x07, 0x10, 48, 128, 64, 32] }) ∧
  (∀ (s : State) (f : Frame) (flags : Byte), Takes s .status f → f.payload = [flags] →
    (2 ≤ flags.toNat → exec .status s = .next { s with link := answered s.link f [0x12] }) ∧
    (flags.toNat ≤ 1 → exec .status s = .next { s with
      counters := if flags = 1 then Counters.reset else s.counters
      link := answered s.link f (0x00 ::
        (wordBytes s.counters.crc ++ wordBytes s.counters.framing ++ wordBytes s.counters.gap
          ++ wordBytes s.counters.overrun ++ wordBytes s.counters.duplicate
          ++ wordBytes s.counters.busStall ++ wordBytes s.counters.holdExpiry
          ++ [natByte (s.table.toList.countP Option.isNone), natByte s.freeBlocks.length,
              natByte s.freeBuffers.length, natByte s.notices.completed.length,
              natByte s.notices.credit, phaseByte s.engine.phase,
              (match s.engine.ctx with
                | some c => natByte c.slot.val
                | none => 0xFF),
              boolByte (s.engine.phase != .detached) ||| (boolByte s.engine.detaching <<< 1)
                ||| (boolByte s.notices.reservation <<< 2),
              s.holdLimit, s.stallLimit])) }))

/-- RESET without a payload is a soft reset with no response: every record FREE, the store 0, the pools
full, engine, notices and counters at their reset values, the link empty with HELLO(SOFT) pending; the
rate and both limits stay (R182). The model's choices: the receiver stays in a break (log 13), and the
message buffers, all free now, keep their old bytes and lengths (log 10). -/
def Obligations.ResetIsASoftReset : Prop :=
  ∀ (s : State) (f : Frame), Takes s .reset f →
    exec .reset s = .next { s with
      table := Vector.replicate 48 none
      store := []
      freeBlocks := List.finRange 128
      updateHold := []
      engine := endedEngine .detached false
      freeBuffers := List.finRange 64
      notices := { completed := [], reservation := false, credit := 0, overflow := false, seq := 0 }
      counters := Counters.reset
      link := { receiver := if s.link.receiver = .lineBreak then .lineBreak else .hunt
                inbox := [], responses := [], cache := none, sending := none, hello := some .soft } }

/-- CREDIT raises the credit by n, cut at 16, and reports it; 17 or more is refused (R144). HOLDLIMIT and
STALLLIMIT set and report their limit and touch no running timer; 0, and for STALLLIMIT 51 or more, is
refused (R120, R160). -/
def Obligations.CreditAndTheLimitsAreSetWithinTheirRanges : Prop :=
  (∀ (s : State) (f : Frame) (n : Byte), Takes s .credit f → f.payload = [n] →
    (17 ≤ n.toNat → exec .credit s = .next { s with link := answered s.link f [0x12] }) ∧
    (n.toNat ≤ 16 → exec .credit s = .next { s with
      notices := { s.notices with credit := min 16 (s.notices.credit + n.toNat) }
      link := answered s.link f [0x00, natByte (min 16 (s.notices.credit + n.toNat))] })) ∧
  (∀ (s : State) (f : Frame) (v : Byte), Takes s .holdLimit f → f.payload = [v] →
    (v = 0 → exec .holdLimit s = .next { s with link := answered s.link f [0x12] }) ∧
    (v ≠ 0 → exec .holdLimit s = .next { s with
      holdLimit := v, link := answered s.link f [0x00, v] })) ∧
  (∀ (s : State) (f : Frame) (v : Byte), Takes s .stallLimit f → f.payload = [v] →
    (v = 0 ∨ 51 ≤ v.toNat → exec .stallLimit s = .next { s with link := answered s.link f [0x12] }) ∧
    (1 ≤ v.toNat ∧ v.toNat ≤ 50 → exec .stallLimit s = .next { s with
      stallLimit := v, link := answered s.link f [0x00, v] }))

/-- R92: ATTACH with a payload is refused with BAD_LENGTH; without one it answers OK: DETACHED enters
LISTEN, an attached engine loses the detaching mark and keeps its phase and its open transaction, and an
attached engine without the mark is unchanged. No timer starts, and in LISTEN clocks and bytes have no effect:
only a START leads to an address byte. -/
def Obligations.AttachEntersListenOrClearsTheMark : Prop :=
  (∀ (s : State) (f : Frame), Takeable s f → Fresh s f → f.code = 0x05 → f.payload ≠ [] →
    exec .attach s = .next { s with link := answered s.link f [0x11] }) ∧
  (∀ (s : State) (f : Frame), Takes s .attach f →
    (s.engine.phase = .detached → exec .attach s = .next { s with
      engine := { s.engine with phase := .listen }
      link := answered s.link f [0x00] }) ∧
    (s.engine.phase ≠ .detached → s.engine.detaching = true → exec .attach s = .next { s with
      engine := { s.engine with detaching := false }
      link := answered s.link f [0x00] }) ∧
    (s.engine.phase ≠ .detached → s.engine.detaching = false → exec .attach s = .next { s with
      link := answered s.link f [0x00] })) ∧
  (∀ (s : State) (v : Byte) (ack : Bool) (e : Edge), s.engine.phase = .listen →
    exec (.addressByte v) s = .next s ∧ exec (.pointerByte v) s = .next s ∧
    exec (.bankWriteByte v) s = .next s ∧ exec (.mailboxWriteByte v) s = .next s ∧
    exec .readByteDrive s = .next s ∧ exec (.readByteAcknowledge ack) s = .next s ∧
    exec (.sclEdge e) s = .next s)

/-- DETACH: at once when nothing is pinned, DEFERRED with the mark when a transaction is open past its
address, and in a hold the unpin with NACK, the Update Hold applied and DETACHED (R93, R130). -/
def Obligations.DetachIsImmediateOrDeferred : Prop :=
  ∀ (s : State) (f : Frame), Takes s .detach f →
    (s.engine.phase = .detached → exec .detach s = .next { s with link := answered s.link f [0x00] }) ∧
    (s.engine.phase = .address ∨
        (s.engine.detaching = false ∧
          (s.engine.phase = .listen ∨ s.engine.phase = .ignore ∨ s.engine.phase = .recover)) →
      exec .detach s = .next { s with
        engine := { s.engine with phase := .detached, detaching := false, sda := .released }
        link := answered s.link f [0x00] }) ∧
    (phaseSupervised s.engine.phase = true → exec .detach s = .next { s with
      engine := { s.engine with detaching := true }
      link := answered s.link f [0x02] }) ∧
    (∀ (c : Context) (r : Record), s.engine.phase = .hold → s.engine.ctx = some c →
      s.record c.slot = some r → r.state ≠ .retiring → c.reserved = false → c.served = .unfixed →
      exec .detach s = .next { s with
        store := s.updateHold.foldl (applyHeld s.table) s.store
        updateHold := []
        engine := { endedEngine .detached false with sda := .nack }
        link := answered s.link f [0x00] })

/-! ## The Endpoint Table -/

/-- INSTALL whose checks pass fills the chosen slot with the new record and answers OK and the slot. For a
BANK the lowest-numbered free blocks are its block list, every window byte holds the fill byte and no other
byte of the store changes; for a MAILBOX the queue is empty and nothing but the slot and the link changes
(R16, R46). -/
def Obligations.InstallFillsASlot : Prop :=
  (∀ (s : State) (f : Frame) (i : Slot), Takes s .install f →
    Accepts s (installFields f.payload) i → (installFields f.payload).kindCode = 0 →
    s.store.wf = true → s.freeBlocks.Pairwise (· < ·) →
    ∀ (q : InstallFields) (blocks : List BlockNo), q = installFields f.payload →
      blocks = s.freeBlocks.take ((q.size.toNat + 15) / 16) →
      (∀ k ∈ blocks, ∀ l ∈ s.freeBlocks.drop ((q.size.toNat + 15) / 16), k < l) ∧
      ∃ (store : Memory) (policy : WritePolicy), policyByte policy = q.policyCode.setWidth 8 ∧
        exec .install s = .next { s with
          table := s.table.set i.val (some
            { state := if q.activate then .live else .staged
              address := storedAddress (sevenBit q.address) (sevenBit q.mask)
              mask := sevenBit q.mask
              tag := if q.tagPresent then some q.tag else none
              interval := q.interval
              remaining := q.interval
              stale := false
              stalePolicy := if q.refuse then .refuse else .answer
              content := .bank { size := q.size.toNat, fill := q.fill, policy := policy
                                 fetchOnRead := q.fetchOnRead, blocks := blocks, pointer := 0 } }) i.isLt
          store := store
          freeBlocks := s.freeBlocks.drop ((q.size.toNat + 15) / 16)
          link := answered s.link f [0x00, natByte i.val] } ∧
        store.wf = true ∧
        (∀ p, p < q.size.toNat → windowByte store blocks p = q.fill) ∧
        (∀ a, (∀ p, p < q.size.toNat → windowCell blocks p ≠ some a) → memRead store a = memRead s.store a)) ∧
  (∀ (s : State) (f : Frame) (i : Slot) (q : InstallFields), q = installFields f.payload →
    Takes s .install f → Accepts s q i → q.kindCode = 1 →
    exec .install s = .next { s with
      table := s.table.set i.val (some
        { state := if q.activate then .live else .staged
          address := storedAddress (sevenBit q.address) (sevenBit q.mask)
          mask := sevenBit q.mask
          tag := if q.tagPresent then some q.tag else none
          interval := q.interval
          remaining := q.interval
          stale := false
          stalePolicy := if q.refuse then .refuse else .answer
          content := .mailbox { depth := q.depth.toNat, acceptInbound := q.acceptInbound
                                queue := [], headFlushed := false } }) i.isLt
      link := answered s.link f [0x00, natByte i.val] })

/-- INSTALL answers the first check of R12 that fails, with the slot byte 0xFF, and changes nothing but
the link; the cases of BAD_PARAM are those R13 lists (R12 to R15). -/
def Obligations.InstallReportsTheFirstFailedCheck : Prop :=
  (∀ q : InstallFields, installBadParam q = true ↔
    0x80 ≤ q.address.toNat ∨ 0x80 ≤ q.mask.toNat ∨ (q.kindCode ≠ 0 ∧ q.kindCode ≠ 1) ∨
    q.undefinedFlag = true ∨
    (q.kindCode = 0 ∧ (q.size = 0 ∨ 256 < q.size.toNat ∨
      (q.policyCode ≠ 0 ∧ q.policyCode ≠ 1 ∧ q.policyCode ≠ 2) ∨ q.acceptInbound = true)) ∨
    (q.kindCode = 1 ∧ (q.depth = 0 ∨ 8 < q.depth.toNat ∨ q.fetchOnRead = true))) ∧
  ∀ (s : State) (f : Frame) (q : InstallFields), q = installFields f.payload → Takes s .install f →
    (48 ≤ q.slot.toNat ∧ q.slot ≠ 0xFF →
      exec .install s = .next { s with link := answered s.link f [0x13, 0xFF] }) ∧
    (q.slot.toNat < 48 ∨ q.slot = 0xFF →
      (installBadParam q = true →
        exec .install s = .next { s with link := answered s.link f [0x12, 0xFF] }) ∧
      (installBadParam q = false →
        (¬HasUsableAddress q →
          exec .install s = .next { s with link := answered s.link f [0x15, 0xFF] }) ∧
        (HasUsableAddress q →
          (SharesAddress s q →
            exec .install s = .next { s with link := answered s.link f [0x16, 0xFF] }) ∧
          (¬SharesAddress s q →
            ((∀ i, ¬Chosen s q i) →
              exec .install s = .next { s with link := answered s.link f [0x17, 0xFF] }) ∧
            (∀ i, Chosen s q i → q.kindCode = 0 →
              s.freeBlocks.length < (q.size.toNat + 15) / 16 →
              exec .install s = .next { s with link := answered s.link f [0x18, 0xFF] })))))

/-- ACTIVATE takes STAGED to LIVE and RESUME takes QUIESCED to LIVE, both with the count reloaded and
stale cleared; QUIESCE takes LIVE to QUIESCED and keeps both; nothing else but the link changes (R5, R18
to R20). -/
def Obligations.LifecycleCommandsMoveTheState : Prop :=
  ∀ (s : State) (f : Frame) (i : Slot) (r : Record), Names f i → s.record i = some r →
    (Takes s .activate f → r.state = .staged → exec .activate s = .next { s with
      table := s.table.set i.val
        (some { r with state := .live, remaining := r.interval, stale := false }) i.isLt
      link := answered s.link f [0x00] }) ∧
    (Takes s .quiesce f → r.state = .live → exec .quiesce s = .next { s with
      table := s.table.set i.val (some { r with state := .quiesced }) i.isLt
      link := answered s.link f [0x00] }) ∧
    (Takes s .resume f → r.state = .quiesced → exec .resume s = .next { s with
      table := s.table.set i.val
        (some { r with state := .live, remaining := r.interval, stale := false }) i.isLt
      link := answered s.link f [0x00] })

/-- RETIRE of a record that is not pinned frees it with its blocks or buffers and answers OK; pinned
outside HOLD it becomes RETIRING and answers DEFERRED, nothing released; in HOLD the hold ends with NACK, the
Update Hold is discarded, the record is freed with what it owns, no notice is queued and no counter rises,
the engine is in IGNORE, and the status is OK (R21 to R23, R47, R99, R130). -/
def Obligations.RetireFreesDefersOrEndsAHold : Prop :=
  (∀ (s : State) (f : Frame) (i : Slot) (r : Record), Takes s .retire f → Names f i →
    s.record i = some r → r.state ≠ .retiring →
    (s.pinned i = false → exec .retire s = .next { s with
      table := s.table.set i.val none i.isLt
      freeBlocks := poolReturn (s.blocksOf i) s.freeBlocks
      freeBuffers := poolReturn (s.queueOf i) s.freeBuffers
      link := answered s.link f [0x00] }) ∧
    (s.pinned i = true → s.engine.phase ≠ .hold → exec .retire s = .next { s with
      table := s.table.set i.val (some { r with state := .retiring }) i.isLt
      link := answered s.link f [0x02] })) ∧
  (∀ (s : State) (f : Frame) (c : Context) (r : Record), Takes s .retire f → Names f c.slot →
    s.engine.phase = .hold → s.engine.ctx = some c → s.record c.slot = some r → r.state ≠ .retiring →
    c.reserved = false → c.served = .unfixed →
    exec .retire s = .next { s with
      table := s.table.set c.slot.val none c.slot.isLt
      freeBlocks := poolReturn (s.blocksOf c.slot) s.freeBlocks
      freeBuffers := poolReturn (s.queueOf c.slot) s.freeBuffers
      updateHold := []
      engine := { endedEngine .ignore s.engine.detaching with sda := .nack }
      link := answered s.link f [0x00] })

/-- QUERY reports a FREE slot as 18 zeros, a BANK and a MAILBOX by the layout of R190. LOOKUP refuses an
address of more than 7 bits, and otherwise names the resolving endpoint with its state and stale flag, or
0xFF. Both change nothing but the link (R27, R43). That the record flags R190 does not name for the kind are 0
is the model's choice (log 23). -/
def Obligations.QueryAndLookupReport : Prop :=
  (∀ (s : State) (f : Frame) (i : Slot), Takes s .query f → Names f i →
    (s.record i = none →
      exec .query s = .next { s with link := answered s.link f (0x00 :: List.replicate 18 0) }) ∧
    (∀ (r : Record) (b : Bank), s.record i = some r → r.content = .bank b →
      exec .query s = .next { s with link := answered s.link f (
        [0x00, stateByte (some r), 0, r.address.setWidth 8, r.mask.setWidth 8, natByte (specificity r.mask)]
          ++ wordBytes (r.tag.getD 0)
          ++ [boolByte r.tag.isSome ||| (boolByte r.stale <<< 1) ||| (boolByte (r.stalePolicy == .refuse) <<< 2)
                ||| (boolByte (s.pinned i) <<< 3) ||| (boolByte b.fetchOnRead <<< 4),
              r.interval, r.remaining]
          ++ (natBytes b.size ++ [b.fill, policyByte b.policy] ++ natBytes b.pointer
            ++ [natByte b.blocks.length, natByte ((b.blocks.head?.map Fin.val).getD 0)])) }) ∧
    (∀ (r : Record) (m : Mailbox), s.record i = some r → r.content = .mailbox m →
      exec .query s = .next { s with link := answered s.link f (
        [0x00, stateByte (some r), 1, r.address.setWidth 8, r.mask.setWidth 8, natByte (specificity r.mask)]
          ++ wordBytes (r.tag.getD 0)
          ++ [boolByte r.tag.isSome ||| (boolByte r.stale <<< 1) ||| (boolByte (r.stalePolicy == .refuse) <<< 2)
                ||| (boolByte (s.pinned i) <<< 3)
                ||| ((boolByte m.acceptInbound <<< 5) ||| (boolByte m.headFlushed <<< 6)),
              r.interval, r.remaining]
          ++ [natByte m.depth, natByte m.queue.length,
              natByte ((m.queue.head?.map fun k => (s.buffer k).length).getD 0), 0, 0, 0, 0, 0]) })) ∧
  (∀ (s : State) (f : Frame) (b : Byte), Takes s .lookup f → f.payload = [b] →
    (0x80 ≤ b.toNat → exec .lookup s = .next { s with link := answered s.link f [0x12] }) ∧
    (b.toNat < 0x80 → resolve s.table (b.setWidth 7) = none →
      exec .lookup s = .next { s with link := answered s.link f [0x00, 0xFF, 0, 0] }) ∧
    (∀ (i : Slot) (r : Record), b.toNat < 0x80 → resolve s.table (b.setWidth 7) = some (i, r) →
      exec .lookup s = .next { s with
        link := answered s.link f [0x00, natByte i.val, stateByte (some r), boolByte r.stale] }))

/-- R154: TOUCH of a STAGED, LIVE or QUIESCED record, BANK or MAILBOX, pinned or not, loads the count with
the interval, clears stale, answers OK and changes nothing else; an unsupervised record in its ranges does
not change; a payload that is not one byte, a slot of 48 or more, and FREE or RETIRING are refused in that
order and change nothing. -/
def Obligations.TouchRefreshes : Prop :=
  (∀ (s : State) (f : Frame), Takeable s f → Fresh s f → f.code = 0x17 → f.payload.length ≠ 1 →
    exec .touch s = .next { s with link := answered s.link f [0x11] }) ∧
  (∀ (s : State) (f : Frame), Takes s .touch f → 48 ≤ (byteAt f.payload 0).toNat →
    exec .touch s = .next { s with link := answered s.link f [0x13] }) ∧
  (∀ (s : State) (f : Frame) (i : Slot), Takes s .touch f → Names f i →
    (s.record i = none → exec .touch s = .next { s with link := answered s.link f [0x14] }) ∧
    (∀ r, s.record i = some r →
      (r.state = .retiring → exec .touch s = .next { s with link := answered s.link f [0x14] }) ∧
      (r.state ≠ .retiring → exec .touch s = .next { s with
        table := s.table.set i.val (some { r with remaining := r.interval, stale := false }) i.isLt
        link := answered s.link f [0x00] }) ∧
      (r.state ≠ .retiring → r.interval = 0 → r.ranges →
        exec .touch s = .next { s with link := answered s.link f [0x00] })))

/-! ## The Register Store -/

/-- R52: a LOAD accepted for a bank that is not pinned writes its bytes into window bytes offset to offset
plus count minus 1 at once, refreshes the record, and answers OK. The bus pointer, the state, the notices
and every other byte of the store stay. -/
def Obligations.LoadWritesTheWindowAtOnce : Prop :=
  ∀ (s : State) (f : Frame) (i : Slot) (r : Record) (b : Bank) (offset : Nat) (data : List Byte),
    Takes s .load f → Names f i → s.record i = some r → r.state ≠ .retiring → r.content = .bank b →
    offset = (byteAt f.payload 1).toNat → data = f.payload.drop 2 → offset + data.length ≤ b.size →
    s.pinned i = false → s.store.wf = true → b.ranges → b.blocks.Nodup →
    ∃ store : Memory,
      exec .load s = .next { s with
        store := store
        table := s.table.set i.val (some { r with remaining := r.interval, stale := false }) i.isLt
        link := answered s.link f [0x00] } ∧
      store.wf = true ∧
      (∀ p, p < b.size → windowByte store b.blocks p =
        if offset ≤ p ∧ p < offset + data.length then data.getD (p - offset) 0
        else windowByte s.store b.blocks p) ∧
      (∀ a, (∀ k, k < data.length → windowCell b.blocks (offset + k) ≠ some a) →
        memRead store a = memRead s.store a)

/-- A LOAD for a bank that is pinned is kept whole at the tail of the Update Hold, refreshes, and answers
HELD; with 4 entries already held it answers BUSY and changes nothing (R53). Out of range it answers
OUT_OF_RANGE, and for a MAILBOX WRONG_KIND, pinned or not (R51). -/
def Obligations.LoadToAPinnedBankIsHeldOrBusy : Prop :=
  ∀ (s : State) (f : Frame) (i : Slot) (r : Record), Takes s .load f → Names f i →
    s.record i = some r → r.state ≠ .retiring →
    (∀ m, r.content = .mailbox m →
      exec .load s = .next { s with link := answered s.link f [0x1C] }) ∧
    (∀ b, r.content = .bank b → b.size < (byteAt f.payload 1).toNat + (f.payload.length - 2) →
      exec .load s = .next { s with link := answered s.link f [0x19] }) ∧
    (∀ b, r.content = .bank b → (byteAt f.payload 1).toNat + (f.payload.length - 2) ≤ b.size →
      s.pinned i = true →
      (s.updateHold.length < 4 → exec .load s = .next { s with
        updateHold := s.updateHold ++
          [{ slot := i, offset := (byteAt f.payload 1).toNat, data := f.payload.drop 2 }]
        table := s.table.set i.val (some { r with remaining := r.interval, stale := false }) i.isLt
        link := answered s.link f [0x01] }) ∧
      (4 ≤ s.updateHold.length →
        exec .load s = .next { s with link := answered s.link f [0x1B] }))

/-- R55: READ checks its length, slot, count, state, kind and range in that order, and otherwise answers
the window bytes offset to offset plus count minus 1 as they stand in the store, pinned or not; nothing but
the link changes in any case. -/
def Obligations.ReadAnswersTheStoreBytes : Prop :=
  (∀ (s : State) (f : Frame), Takeable s f → Fresh s f → f.code = 0x21 → f.payload.length ≠ 3 →
    exec .read s = .next { s with link := answered s.link f [0x11] }) ∧
  (∀ (s : State) (f : Frame) (slot offset count : Byte), Takes s .read f →
    f.payload = [slot, offset, count] →
    (48 ≤ slot.toNat → exec .read s = .next { s with link := answered s.link f [0x13] }) ∧
    (∀ i : Slot, slot.toNat = i.val →
      (count = 0 ∨ 48 < count.toNat →
        exec .read s = .next { s with link := answered s.link f [0x12] }) ∧
      (1 ≤ count.toNat ∧ count.toNat ≤ 48 →
        (s.record i = none → exec .read s = .next { s with link := answered s.link f [0x14] }) ∧
        (∀ r, s.record i = some r →
          (∀ m, r.content = .mailbox m →
            exec .read s = .next { s with link := answered s.link f [0x1C] }) ∧
          (∀ b, r.content = .bank b → b.size < offset.toNat + count.toNat →
            exec .read s = .next { s with link := answered s.link f [0x19] }) ∧
          (∀ b, r.content = .bank b → offset.toNat + count.toNat ≤ b.size →
            exec .read s = .next { s with link := answered s.link f (0x00 ::
              (List.range count.toNat).map fun k => windowByte s.store b.blocks (offset.toNat + k)) })))))

/-- A FILL that finds its bank in a FETCH hold writes its bytes at once although the bank is pinned, refreshes, and
ends the hold with ACK into READ: SCL is released, the hold timer stops, the stall timer starts, the Update Hold
stays. (Before the fall of the eighth clock the ACK is only due, log 17; after it SDA is driven at once even while SCL
is forced high, the model's choice, log 24.) Any other FILL is treated as a LOAD: written at once with LATE when its
bank is not pinned, held with LATE when it is, BUSY with 4 entries held; WRONG_KIND and OUT_OF_RANGE come first (R122
to R124, R65). -/
def Obligations.FillAnswersTheHoldOrIsALateLoad : Prop :=
  (∀ (s : State) (f : Frame) (c : Context) (r : Record) (b : Bank) (offset : Nat) (data : List Byte),
    Takes s .fill f → Names f c.slot → s.record c.slot = some r → r.state ≠ .retiring →
    r.content = .bank b → offset = (byteAt f.payload 1).toNat → data = f.payload.drop 2 →
    offset + data.length ≤ b.size → s.engine.phase = .hold → s.engine.ctx = some c →
    c.holdReason = some .fetch → s.store.wf = true → b.ranges → b.blocks.Nodup →
    ∃ store : Memory,
      exec .fill s = .next { s with
        store := store
        table := s.table.set c.slot.val (some { r with remaining := r.interval, stale := false }) c.slot.isLt
        engine := { s.engine with
          phase := .read
          ctx := some { c with holdReason := none }
          holdTimer := none
          stallTimer := some s.stallLimit
          stretching := false
          sda := .ack (if s.engine.stretching then .driven else .due) }
        link := answered s.link f [0x00] } ∧
      store.wf = true ∧
      (∀ p, p < b.size → windowByte store b.blocks p =
        if offset ≤ p ∧ p < offset + data.length then data.getD (p - offset) 0
        else windowByte s.store b.blocks p) ∧
      (∀ a, (∀ k, k < data.length → windowCell b.blocks (offset + k) ≠ some a) →
        memRead store a = memRead s.store a)) ∧
  (∀ (s : State) (f : Frame) (i : Slot) (r : Record), Takes s .fill f → Names f i →
    s.record i = some r → r.state ≠ .retiring →
    (∀ m, r.content = .mailbox m →
      exec .fill s = .next { s with link := answered s.link f [0x1C] }) ∧
    (∀ b, r.content = .bank b → b.size < (byteAt f.payload 1).toNat + (f.payload.length - 2) →
      exec .fill s = .next { s with link := answered s.link f [0x19] }) ∧
    (∀ b, r.content = .bank b → (byteAt f.payload 1).toNat + (f.payload.length - 2) ≤ b.size →
      (s.pinned i = false → exec .fill s = .next { s with
        store := windowWrite s.store b.blocks (byteAt f.payload 1).toNat (f.payload.drop 2)
        table := s.table.set i.val (some { r with remaining := r.interval, stale := false }) i.isLt
        link := answered s.link f [0x03] }) ∧
      (∀ c, s.engine.ctx = some c → c.slot = i →
        ¬(s.engine.phase = .hold ∧ c.holdReason = some .fetch) →
        (s.updateHold.length < 4 → exec .fill s = .next { s with
          updateHold := s.updateHold ++
            [{ slot := i, offset := (byteAt f.payload 1).toNat, data := f.payload.drop 2 }]
          table := s.table.set i.val (some { r with remaining := r.interval, stale := false }) i.isLt
          link := answered s.link f [0x03] }) ∧
        (4 ≤ s.updateHold.length →
          exec .fill s = .next { s with link := answered s.link f [0x1B] }))))

/-! ## Mailboxes -/

/-- POST checks its count, the state (FREE and RETIRING are BAD_STATE), the kind, the depth limit and the pool in that
order, and otherwise puts the message into the lowest-numbered free buffer, which is the head of the ascending list of
free buffers, at the tail of the queue and refreshes, pinned or not (R101, R102). -/
def Obligations.PostAppendsTheMessage : Prop :=
  ∀ (s : State) (f : Frame) (i : Slot) (msg : List Byte), Takes s .post f → Names f i →
    msg = f.payload.drop 2 →
    ((byteAt f.payload 1).toNat ≠ msg.length →
      exec .post s = .next { s with link := answered s.link f [0x12] }) ∧
    ((byteAt f.payload 1).toNat = msg.length →
      (s.record i = none ∨ ∃ r, s.record i = some r ∧ r.state = .retiring) →
      exec .post s = .next { s with link := answered s.link f [0x14] }) ∧
    (∀ r, (byteAt f.payload 1).toNat = msg.length → s.record i = some r → r.state ≠ .retiring →
      (∀ b, r.content = .bank b → exec .post s = .next { s with link := answered s.link f [0x1C] }) ∧
      (∀ m, r.content = .mailbox m → m.depth ≤ m.queue.length →
        exec .post s = .next { s with link := answered s.link f [0x1A] }) ∧
      (∀ m, r.content = .mailbox m → m.queue.length < m.depth → s.freeBuffers = [] →
        exec .post s = .next { s with link := answered s.link f [0x18] }) ∧
      (∀ m k rest, r.content = .mailbox m → m.queue.length < m.depth → s.freeBuffers = k :: rest →
        exec .post s = .next { s with
          table := s.table.set i.val (some { r with
            remaining := r.interval
            stale := false
            content := .mailbox { m with queue := m.queue ++ [k] } }) i.isLt
          buffers := s.buffers.set k.val
            { length := msg.length, bytes := msg ++ (s.buffer k).bytes.drop msg.length } k.isLt
          freeBuffers := rest
          link := answered s.link f [0x00] } ∧
        (s.freeBuffers.Pairwise (· < ·) → ∀ l ∈ rest, k < l)))

/-- FLUSH of a mailbox with no served message empties its queue and frees every buffer; with the served
message of an open read present it removes every other message, marks that one and leaves it; a BANK is
WRONG_KIND (R109 to R112). -/
def Obligations.FlushRemovesAllButTheServedMessage : Prop :=
  ∀ (s : State) (f : Frame) (i : Slot) (r : Record), Takes s .flush f → Names f i → s.record i = some r →
    (∀ b, r.content = .bank b → exec .flush s = .next { s with link := answered s.link f [0x1C] }) ∧
    (∀ m, r.content = .mailbox m →
      (∀ c k, s.engine.ctx = some c → c.slot = i → c.direction = .read → c.served ≠ .message k) →
      exec .flush s = .next { s with
        table := s.table.set i.val (some { r with content := .mailbox { m with queue := [] } }) i.isLt
        freeBuffers := poolReturn m.queue s.freeBuffers
        link := answered s.link f [0x00, natByte m.queue.length, 0] }) ∧
    (∀ m c k rest, r.content = .mailbox m → s.engine.ctx = some c → c.slot = i → c.direction = .read →
      c.served = .message k → m.queue = k :: rest → m.queue.Nodup →
      exec .flush s = .next { s with
        table := s.table.set i.val
          (some { r with content := .mailbox { m with queue := [k], headFlushed := true } }) i.isLt
        freeBuffers := poolReturn rest s.freeBuffers
        link := answered s.link f [0x00, natByte rest.length, 1] })

/-! ## Link events -/

/-- A character is taken by the receiver's state: SYNC in HUNT opens a frame and any other value is dropped; a
LEN of 2 to 60 is taken and any other is taken again in HUNT; after LEN it is the next byte; in a break none is
taken. At the CRC byte the receiver hunts again; a mismatch is counted, a valid frame joins the inbox, and with
4 frames in the inbox it is discarded and the overrun counted (R170, R172, R173). The CRC character taken as
CHARACTER_RECEIVED does the same (log 6). -/
def Obligations.TheReceiverTakesCharactersAndEndsFrames : Prop :=
  (∀ (s : State) (v : Byte), s.hardReset = false →
    (s.link.receiver = .hunt → exec (.characterReceived v) s = .next { s with
      link := { s.link with receiver := if v = 0xB7 then .frameLen else .hunt } }) ∧
    (s.link.receiver = .frameLen → exec (.characterReceived v) s = .next { s with
      link := { s.link with receiver :=
        if 2 ≤ v.toNat ∧ v.toNat ≤ 60 then .frameBody v.toNat []
        else if v = 0xB7 then .frameLen else .hunt } }) ∧
    (∀ len got, s.link.receiver = .frameBody len got → got.length < len →
      exec (.characterReceived v) s = .next { s with
        link := { s.link with receiver := .frameBody len (got ++ [v]) } }) ∧
    (s.link.receiver = .lineBreak → exec (.characterReceived v) s = .next s)) ∧
  (∀ (s : State) (v : Byte) (len : Nat) (got : List Byte), s.hardReset = false →
    s.link.receiver = .frameBody len got → got.length = len →
    exec (.characterReceived v) s = exec (.frameReceived v) s ∧
    (crcOf (natByte len :: got) ≠ v → exec (.frameReceived v) s = .next { s with
      link := { s.link with receiver := .hunt }
      counters := { s.counters with crc := if s.counters.crc = 0xFFFF then 0xFFFF else s.counters.crc + 1 } }) ∧
    (crcOf (natByte len :: got) = v → s.link.inbox.length < 4 →
      exec (.frameReceived v) s = .next { s with
        link := { s.link with
          receiver := .hunt
          inbox := s.link.inbox ++
            [{ seq := byteAt got 0, code := byteAt got 1, payload := got.drop 2 }] } }) ∧
    (crcOf (natByte len :: got) = v → 4 ≤ s.link.inbox.length →
      exec (.frameReceived v) s = .next { s with
        link := { s.link with receiver := .hunt }
        counters := { s.counters with
          overrun := if s.counters.overrun = 0xFFFF then 0xFFFF else s.counters.overrun + 1 } }))

/-- A character is a low start bit, 8 data bits with the least significant first and a high stop bit, and ten
levels are read as a byte exactly when they are that byte's character. LTX carries the characters of the frame being
sent, bit after bit without a pause, and is high after them and when idle (R168, R178). What the part sends, it would
receive: the bytes of a frame of 2 to 60 bytes from SEQ on, fed one by one to a hunting receiver, put that frame into
the inbox and leave the receiver hunting (R170 to R173, R186). -/
def Obligations.AFrameOnTheLineIsReceivedWhole : Prop :=
  (∀ v : Byte, charBits v =
    [false, v.getLsbD 0, v.getLsbD 1, v.getLsbD 2, v.getLsbD 3, v.getLsbD 4, v.getLsbD 5, v.getLsbD 6,
      v.getLsbD 7, true]) ∧
  (∀ (bits : List Bool) (v : Byte), charOfBits bits = some v ↔ bits = charBits v) ∧
  (∀ (s : State) (k : Nat), s.link.sending = none → s.ltxHigh k = true) ∧
  (∀ (s : State) (x : Sending) (bytes : List Byte), s.link.sending = some x → s.ltxBytes = some bytes →
    (∀ k j, k < bytes.length → j < 10 →
      s.ltxHigh (10 * k + j) = (charBits (bytes.getD k 0)).getD j true) ∧
    (∀ k, 10 * bytes.length ≤ k → s.ltxHigh k = true)) ∧
  ∀ (s : State) (f : Frame), s.link.receiver = .hunt → f.payload.length ≤ 58 → s.link.inbox.length < 4 →
    (frameWire f).foldl State.takeCharacter s =
      { s with link := { s.link with inbox := s.link.inbox ++ [f] } }

/-- A framing error is counted inside or outside a frame and drops the frame; a gap inside a frame is
counted and drops it; neither counter passes 65535. A link reset clears the inbox, the Response Queue, the cache
and LTX, sets credit and notice sequence to 0, keeps the queued notices, sets the overflow flag again if a cut
notice frame carried it, and leaves everything outside the link; the rise of LRX makes HELLO(LINK) pending
unless a HELLO is (R169, R171, R174, R146, R179, R180). That a second link reset in the break changes nothing is
log 2. -/
def Obligations.LineErrorsAndTheBreak : Prop :=
  (∀ s : State, s.hardReset = false →
    (s.link.receiver ≠ .lineBreak → exec .framingError s = .next { s with
      link := { s.link with receiver := .hunt }
      counters := { s.counters with
        framing := if s.counters.framing = 0xFFFF then 0xFFFF else s.counters.framing + 1 } }) ∧
    (s.link.receiver = .frameLen ∨ (∃ len got, s.link.receiver = .frameBody len got) →
      exec .gapTimeout s = .next { s with
        link := { s.link with receiver := .hunt }
        counters := { s.counters with gap := if s.counters.gap = 0xFFFF then 0xFFFF else s.counters.gap + 1 } })) ∧
  (∀ s : State, s.hardReset = false →
    (s.link.receiver ≠ .lineBreak → exec .linkReset s = .next { s with
      link := { receiver := .lineBreak, inbox := [], responses := [], cache := none, sending := none
                hello := s.link.hello }
      notices := { s.notices with
        credit := 0
        seq := 0
        overflow := match s.link.sending with
          | some (.notice _ true) => true
          | _ => s.notices.overflow } }) ∧
    (s.link.receiver = .lineBreak → exec .linkReset s = .next s) ∧
    (s.link.receiver = .lineBreak → exec .breakEnd s = .next { s with
      link := { s.link with receiver := .hunt, hello := some (s.link.hello.getD .link) } }))

/-- On the idle line the arbiter starts a pending HELLO, else the Response Queue's head, else the head
notice when the credit is at least 1; a notice frame takes one credit, the notice sequence number and the
overflow flag, which it clears; the notice stays queued. In a break a HELLO is withheld (after a hardware reset that
found LRX low, log 12). A busy line starts nothing (R178, R145). The notice's frame: CODE by the kind, then
flags, slot and tag, and the kind's fields (R191). -/
def Obligations.FrameStartFollowsTheOrderOfPreference : Prop :=
  (∀ (seq : Byte) (overflow : Bool) (i : Slot) (tag : Option Word16) (body : NoticeBody) (code : Byte)
      (fields : List Byte),
    (∃ start data, body = .write start data ∧ code = 0x40 ∧ fields = BitVec.ofNat 8 start :: data) ∨
      (∃ data, body = .mailboxIn data ∧ code = 0x41 ∧ fields = data) ∨
      (∃ p, body = .fetch p ∧ code = 0x48 ∧ fields = [BitVec.ofNat 8 p, BitVec.ofNat 8 (p / 256)]) ∨
      (body = .holdExpired .fetch ∧ code = 0x49 ∧ fields = [0]) ∨
      (body = .holdExpired .space ∧ code = 0x49 ∧ fields = [1]) ∨
      (body = .stale ∧ code = 0x4A ∧ fields = []) ∨ (body = .retired ∧ code = 0x4B ∧ fields = []) ∨
      (body = .busStall .pointer ∧ code = 0x4C ∧ fields = [4]) ∨
      (body = .busStall .write ∧ code = 0x4C ∧ fields = [5]) ∨
      (body = .busStall .read ∧ code = 0x4C ∧ fields = [6]) ∨
      (body = .busStall .readEnd ∧ code = 0x4C ∧ fields = [7]) →
    noticeFrame seq overflow { slot := i, tag := tag, body := body } =
      { seq := seq
        code := code
        payload := [(if overflow then 1 else 0) + (if tag.isSome then 2 else 0), BitVec.ofNat 8 i.val]
          ++ (match tag with
            | some w => [w.extractLsb' 0 8, w.extractLsb' 8 8]
            | none => [0, 0])
          ++ fields }) ∧
  ∀ s : State, s.hardReset = false →
    (s.link.sending ≠ none → exec .frameStart s = .next s) ∧
    (s.link.sending = none →
      (∀ cause, s.link.hello = some cause → s.link.receiver ≠ .lineBreak →
        exec .frameStart s = .next { s with link := { s.link with
          sending := some (.hello { seq := 0, code := 0x4F
                                    payload := [causeByte cause, 0x48, 0x07, 0x10, 48, 128, 64, 32] }) } }) ∧
      (s.link.hello = none ∨ s.link.receiver = .lineBreak →
        (∀ f rest, s.link.responses = f :: rest →
          exec .frameStart s = .next { s with link := { s.link with sending := some (.response f) } }) ∧
        (s.link.responses = [] →
          (∀ n rest, s.notices.completed = n :: rest → 1 ≤ s.notices.credit →
            exec .frameStart s = .next { s with
              link := { s.link with sending := some (.notice
                (noticeFrame s.notices.seq s.notices.overflow n) s.notices.overflow) }
              notices := { s.notices with credit := s.notices.credit - 1, overflow := false } }) ∧
          (s.notices.completed = [] ∨ s.notices.credit = 0 → exec .frameStart s = .next s))))

/-- When the last byte of a frame has been sent, its source releases it and the arbiter decides in the same event (log
5): the event is the frame start of the state with the frame released, whatever waits and whatever the credit. That
the event changes nothing when no frame is on LTX is the model's choice (log 2). A sent notice leaves the head and the
sequence counter advances modulo 256; an open SPACE hold is granted in the same event, before the arbiter decides,
exactly when the reservation then fits: the hold ends with ACK in POINTER for a bank or WRITE for a mailbox (R145,
R126, R177 to R179). Before the fall of the eighth clock of the held address that ACK is only due (log 17); after it
SDA is driven at once even while a bus controller forces SCL high, which is the model's choice (log 24). -/
def Obligations.ASentFrameIsReleasedByItsSource : Prop :=
  (∀ s : State, s.hardReset = false →
    (s.link.sending = none → exec .frameSent s = .next s) ∧
    (∀ f, s.link.sending = some (.hello f) →
      exec .frameSent s = exec .frameStart { s with link := { s.link with sending := none, hello := none } }) ∧
    (∀ f g rest, s.link.sending = some (.response f) → s.link.responses = g :: rest →
      exec .frameSent s =
        exec .frameStart { s with link := { s.link with sending := none, responses := rest } }) ∧
    (∀ g o n rest, s.link.sending = some (.notice g o) → s.notices.completed = n :: rest →
      (s.engine.phase ≠ .hold ∨ (∀ c, s.engine.ctx = some c → c.holdReason ≠ some .space) ∨
          s.notices.reservation = true ∨ 24 ≤ rest.countP Notice.isData ∨ 32 ≤ rest.length →
        exec .frameSent s = exec .frameStart { s with
          link := { s.link with sending := none }
          notices := { s.notices with completed := rest, seq := s.notices.seq + 1 } }) ∧
      (∀ (c : Context) (r : Record), s.engine.phase = .hold → s.engine.ctx = some c →
        c.holdReason = some .space → s.record c.slot = some r → s.notices.reservation = false →
        rest.countP Notice.isData < 24 → rest.length < 32 →
        exec .frameSent s = exec .frameStart { s with
          link := { s.link with sending := none }
          notices := { s.notices with
            completed := rest, seq := s.notices.seq + 1, reservation := true }
          engine := { s.engine with
            phase := match r.content with
              | .bank _ => .pointer
              | .mailbox _ => .write
            ctx := some { c with holdReason := none, reserved := true }
            holdTimer := none
            stallTimer := some s.stallLimit
            stretching := false
            sda := .ack (if s.engine.stretching then .driven else .due) } }))) ∧
  (∀ (s : State) (f : Frame), s.hardReset = false → s.notices.credit = 0 →
    (s.link.sending = some (.hello f) → s.link.responses = [] →
      exec .frameSent s = .next { s with link := { s.link with sending := none, hello := none } }) ∧
    (s.link.sending = some (.response f) → s.link.responses = [f] → s.link.hello = none →
      exec .frameSent s = .next { s with link := { s.link with sending := none, responses := [] } }) ∧
    (∀ g, s.link.sending = some (.response f) → s.link.responses = [f, g] → s.link.hello = none →
      exec .frameSent s = .next { s with
        link := { s.link with sending := some (.response g), responses := [g] } })) ∧
  (∀ (s : State) (g : Frame) (o : Bool) (n : Notice) (rest : List Notice), s.hardReset = false →
    s.link.sending = some (.notice g o) → s.notices.completed = n :: rest → s.link.hello = none →
    s.link.responses = [] → s.notices.credit = 0 →
    (s.engine.phase ≠ .hold → exec .frameSent s = .next { s with
      link := { s.link with sending := none }
      notices := { s.notices with completed := rest, seq := s.notices.seq + 1 } }) ∧
    (∀ (c : Context) (r : Record), s.engine.phase = .hold → s.engine.ctx = some c →
      c.holdReason = some .space → s.record c.slot = some r → s.notices.reservation = false →
      (rest.countP Notice.isData < 24 ∧ rest.length < 32 →
        exec .frameSent s = .next { s with
          link := { s.link with sending := none }
          notices := { s.notices with
            completed := rest, seq := s.notices.seq + 1, reservation := true }
          engine := { s.engine with
            phase := match r.content with
              | .bank _ => .pointer
              | .mailbox _ => .write
            ctx := some { c with holdReason := none, reserved := true }
            holdTimer := none
            stallTimer := some s.stallLimit
            stretching := false
            sda := .ack (if s.engine.stretching then .driven else .due) } }) ∧
      (24 ≤ rest.countP Notice.isData ∨ 32 ≤ rest.length →
        exec .frameSent s = .next { s with
          link := { s.link with sending := none }
          notices := { s.notices with completed := rest, seq := s.notices.seq + 1 } })))

/-! ## Resets -/

/-- The fall of RSTn puts every block at its reset value, the limits too, with READY low and nothing
pending; the end of the reset takes the rate from the straps and makes HELLO(HARD) pending, with the
receiver in HUNT, or in BREAK if LRX is low (R181, R168, R120, R160). The model's choices: while the reset
lasts nothing else happens (log 14), and the message buffers, all free now, keep their old bytes and lengths
(log 10). -/
def Obligations.TheHardwareResetClearsThePart : Prop :=
  (∀ s : State, exec .hardwareReset s = .next { State.reset with
    pending := s.pending
    hardReset := true
    baud := s.baud
    buffers := s.buffers
    link := { receiver := .hunt, inbox := [], responses := [], cache := none, sending := none
              hello := none } }) ∧
  (∀ (s : State) (bsel1 bsel0 lrxHigh : Bool), s.hardReset = true →
    exec (.hardwareResetEnd bsel1 bsel0 lrxHigh) s = .next { State.reset with
      pending := s.pending
      baud := if bsel1 then (if bsel0 then .b921600 else .b460800)
              else (if bsel0 then .b230400 else .b115200)
      buffers := s.buffers
      link := { receiver := if lrxHigh then .hunt else .lineBreak
                inbox := [], responses := [], cache := none, sending := none, hello := some .hard } }) ∧
  (∀ (s : State) (c : Instr), s.hardReset = true → c ≠ .hardwareReset →
    (∀ a b l, c ≠ .hardwareResetEnd a b l) → exec c s = .next s)

/-! ## The Address Resolver -/

/-- R31: two address sets intersect, that is some address is in both, exactly when the two addresses agree
on every bit position that neither mask marks; the values in masked positions have no effect. -/
def Obligations.SetsIntersectWhereNeitherMaskMarks : Prop :=
  ∀ a₁ m₁ a₂ m₂ : Address,
    (setsIntersect a₁ m₁ a₂ m₂ = true ↔
      ∃ a, inAddressSet a₁ m₁ a = true ∧ inAddressSet a₂ m₂ a = true) ∧
    (setsIntersect a₁ m₁ a₂ m₂ = true ↔
      ∀ k, k < 7 → m₁.getLsbD k = false → m₂.getLsbD k = false → a₁.getLsbD k = a₂.getLsbD k) ∧
    setsIntersect (storedAddress a₁ m₁) m₁ (storedAddress a₂ m₂) m₂ = setsIntersect a₁ m₁ a₂ m₂

/-- The address set of an address and a mask holds 2 raised to the number of mask bits set (R28). -/
def Obligations.AnAddressSetHasTwoToTheMaskBitsMembers : Prop :=
  ∀ address mask : Address,
    (List.range 128).countP (fun k => inAddressSet address mask (BitVec.ofNat 7 k)) = 2 ^ maskCount mask

/-- While no two records of equal specificity intersect, the resolving endpoint of an address is the one
LIVE or QUIESCED record that contains it with a specificity above every other such record's; a reserved
address and an address in no such set resolve to none (R29, R34, R35). -/
def Obligations.TheMostSpecificCandidateResolves : Prop :=
  ∀ (s : State) (a : Address), OverlapLaw s →
    (∀ i r, resolve s.table a = some (i, r) ↔
      0x07 < a.toNat ∧ a.toNat < 0x78 ∧ s.record i = some r ∧
      (r.state = .live ∨ r.state = .quiesced) ∧ inAddressSet r.address r.mask a = true ∧
      (∀ j q, s.record j = some q → (q.state = .live ∨ q.state = .quiesced) →
        inAddressSet q.address q.mask a = true → j ≠ i → specificity q.mask < specificity r.mask)) ∧
    (resolve s.table a = none ↔
      a.toNat ≤ 0x07 ∨ 0x78 ≤ a.toNat ∨
      ∀ i r, s.record i = some r → (r.state = .live ∨ r.state = .quiesced) →
        inAddressSet r.address r.mask a = false)

/-! ## The address byte -/

/-- An address byte is NACKed, and the engine enters IGNORE with nothing else changed, when no endpoint
resolves, or the resolving one is QUIESCED, stale under REFUSE, or a MAILBOX that takes no inbound write;
under the detaching mark it is NACKed without resolution and the engine is DETACHED (R36, R39, R42, R96). -/
def Obligations.AnAddressIsRefused : Prop :=
  ∀ (s : State) (v : Byte) (a : Address) (d : Direction), s.hardReset = false → s.engine.phase = .address →
    a = v.extractLsb' 1 7 → d = (if v.getLsbD 0 then .read else .write) →
    (s.engine.detaching = true → exec (.addressByte v) s = .next { s with
      engine := { s.engine with phase := .detached, detaching := false, sda := .nack } }) ∧
    (s.engine.detaching = false →
      (resolve s.table a = none ∨
        (∃ i r, resolve s.table a = some (i, r) ∧
          (r.state = .quiesced ∨ (r.stale = true ∧ r.stalePolicy = .refuse) ∨
            (∃ m, r.content = .mailbox m ∧ m.acceptInbound = false ∧ d = .write))) →
        exec (.addressByte v) s = .next { s with
          engine := { s.engine with phase := .ignore, sda := .nack } }))

/-- An address byte whose resolving endpoint is LIVE and not refused as stale is ACKed and the endpoint
pinned: a bank read without fetch-on-read and a mailbox read enter READ; a bank write under DENY or APPLY
enters POINTER; a FORWARD bank write and an inbound mailbox write, when the reservation is granted, make
it and enter POINTER or WRITE (R36, R38, R39, R75, R161). The start pointer 0 in a mailbox's context is the
model's choice (log 21). -/
def Obligations.AnAddressIsAcknowledged : Prop :=
  ∀ (s : State) (v : Byte) (d : Direction) (i : Slot) (r : Record), s.hardReset = false →
    s.engine.phase = .address → s.engine.detaching = false →
    d = (if v.getLsbD 0 then .read else .write) →
    resolve s.table (v.extractLsb' 1 7) = some (i, r) → r.state = .live →
    (r.stale = false ∨ r.stalePolicy = .answer) →
    (∀ b, r.content = .bank b → (d = .read ∧ b.fetchOnRead = false) ∨ (d = .write ∧ b.policy ≠ .forward) →
      exec (.addressByte v) s = .next { s with engine := { s.engine with
        phase := if d = .read then .read else .pointer
        ctx := some { slot := i, direction := d, holdReason := none, reserved := false
                      startPointer := b.pointer, refusing := false, headServed := 0, collected := []
                      served := .unfixed }
        holdTimer := none
        stallTimer := some s.stallLimit
        sda := .ack .due } }) ∧
    (∀ b, r.content = .bank b → d = .write → b.policy = .forward → s.notices.canReserve = true →
      exec (.addressByte v) s = .next { s with
        notices := { s.notices with reservation := true }
        engine := { s.engine with
          phase := .pointer
          ctx := some { slot := i, direction := d, holdReason := none, reserved := true
                        startPointer := b.pointer, refusing := false, headServed := 0, collected := []
                        served := .unfixed }
          holdTimer := none
          stallTimer := some s.stallLimit
          sda := .ack .due } }) ∧
    (∀ m, r.content = .mailbox m → d = .read →
      exec (.addressByte v) s = .next { s with engine := { s.engine with
        phase := .read
        ctx := some { slot := i, direction := d, holdReason := none, reserved := false
                      startPointer := 0, refusing := false, headServed := 0, collected := []
                      served := .unfixed }
        holdTimer := none
        stallTimer := some s.stallLimit
        sda := .ack .due } }) ∧
    (∀ m, r.content = .mailbox m → d = .write → m.acceptInbound = true → s.notices.canReserve = true →
      exec (.addressByte v) s = .next { s with
        notices := { s.notices with reservation := true }
        engine := { s.engine with
          phase := .write
          ctx := some { slot := i, direction := d, holdReason := none, reserved := true
                        startPointer := 0, refusing := false, headServed := 0, collected := []
                        served := .unfixed }
          holdTimer := none
          stallTimer := some s.stallLimit
          sda := .ack .due } })

/-- A read of a fetch-on-read bank queues a FETCH notice with the bus pointer and holds the address with
the hold limit in force; with no entry free it is NACKed and the overflow flag set. A FORWARD or inbound
write that gets no reservation holds with reason SPACE and queues nothing. SCL is not driven before the fall of
the eighth clock (R37, R38, R69, R119). The start pointer
0 in a mailbox's context is the model's choice (log 21). -/
def Obligations.AnAddressIsHeld : Prop :=
  ∀ (s : State) (v : Byte) (i : Slot) (r : Record), s.hardReset = false →
    s.engine.phase = .address → s.engine.detaching = false →
    resolve s.table (v.extractLsb' 1 7) = some (i, r) → r.state = .live →
    (r.stale = false ∨ r.stalePolicy = .answer) →
    (∀ b, r.content = .bank b → v.getLsbD 0 = true → b.fetchOnRead = true →
      (s.notices.completed.length + s.notices.reservation.toNat < 32 →
        exec (.addressByte v) s = .next { s with
          notices := { s.notices with
            completed := s.notices.completed ++ [{ slot := i, tag := r.tag, body := .fetch b.pointer }] }
          engine := { s.engine with
            phase := .hold
            ctx := some { slot := i, direction := .read, holdReason := some .fetch, reserved := false
                          startPointer := b.pointer, refusing := false, headServed := 0, collected := []
                          served := .unfixed }
            holdTimer := some s.holdLimit
            stallTimer := none
            stretching := false
            sda := .released } }) ∧
      (32 ≤ s.notices.completed.length + s.notices.reservation.toNat →
        exec (.addressByte v) s = .next { s with
          notices := { s.notices with overflow := true }
          engine := { s.engine with phase := .ignore, sda := .nack } })) ∧
    (∀ p, v.getLsbD 0 = false → s.notices.canReserve = false →
      (∃ b, r.content = .bank b ∧ b.policy = .forward ∧ p = b.pointer) ∨
        (∃ m, r.content = .mailbox m ∧ m.acceptInbound = true ∧ p = 0) →
      exec (.addressByte v) s = .next { s with engine := { s.engine with
        phase := .hold
        ctx := some { slot := i, direction := .write, holdReason := some .space, reserved := false
                      startPointer := p, refusing := false, headServed := 0, collected := []
                      served := .unfixed }
        holdTimer := some s.holdLimit
        stallTimer := none
        stretching := false
        sda := .released } })

/-! ## Bytes of a transaction -/

/-- The pointer byte of a bank write: below the size it is ACKed and sets the bus pointer and the start
pointer; from the size on it is NACKed and the context is refusing; the phase becomes WRITE, and the store
and the collected data do not change (R84). -/
def Obligations.ThePointerBytePlacesTheBusPointer : Prop :=
  ∀ (s : State) (v : Byte) (c : Context) (r : Record) (b : Bank), s.hardReset = false →
    s.engine.phase = .pointer → s.engine.ctx = some c → s.record c.slot = some r → r.content = .bank b →
    (v.toNat < b.size → exec (.pointerByte v) s = .next { s with
      table := s.table.set c.slot.val
        (some { r with content := .bank { b with pointer := v.toNat } }) c.slot.isLt
      engine := { s.engine with
        phase := .write, ctx := some { c with startPointer := v.toNat }, sda := .ack .due } }) ∧
    (b.size ≤ v.toNat → exec (.pointerByte v) s = .next { s with
      engine := { s.engine with phase := .write, ctx := some { c with refusing := true }, sda := .nack } })

/-- A data byte of a bank write that is not refusing: under DENY refused; under APPLY written at the bus
pointer, which advances; under FORWARD collected, with the pointer advanced and the store unchanged; at the
end of the window, or with 32 bytes collected under FORWARD, refused (R85 to R87). -/
def Obligations.ABankWriteByteFollowsTheWritePolicy : Prop :=
  ∀ (s : State) (v : Byte) (c : Context) (r : Record) (b : Bank), s.hardReset = false →
    s.engine.phase = .write → s.engine.ctx = some c → s.record c.slot = some r → r.content = .bank b →
    (c.refusing = true ∨ b.policy = .deny ∨ b.size ≤ b.pointer ∨
        (b.policy = .forward ∧ 32 ≤ c.collected.length) →
      exec (.bankWriteByte v) s = .next { s with
        engine := { s.engine with ctx := some { c with refusing := true }, sda := .nack } }) ∧
    (c.refusing = false → b.policy = .apply → b.pointer < b.size → s.store.wf = true → b.ranges →
      b.blocks.Nodup →
      ∃ store : Memory,
        exec (.bankWriteByte v) s = .next { s with
          store := store
          table := s.table.set c.slot.val
            (some { r with content := .bank { b with pointer := b.pointer + 1 } }) c.slot.isLt
          engine := { s.engine with sda := .ack .due } } ∧
        store.wf = true ∧
        (∀ p, p < b.size → windowByte store b.blocks p =
          if p = b.pointer then v else windowByte s.store b.blocks p) ∧
        (∀ a, windowCell b.blocks b.pointer ≠ some a → memRead store a = memRead s.store a)) ∧
    (c.refusing = false → b.policy = .forward → b.pointer < b.size → c.collected.length < 32 →
      exec (.bankWriteByte v) s = .next { s with
        table := s.table.set c.slot.val
          (some { r with content := .bank { b with pointer := b.pointer + 1 } }) c.slot.isLt
        engine := { s.engine with
          ctx := some { c with collected := c.collected ++ [v] }, sda := .ack .due } })

/-- A data byte of a mailbox write is collected and ACKed up to 32, and refused beyond or once refusing
(R91, R88). -/
def Obligations.AMailboxWriteByteIsCollectedUpTo32 : Prop :=
  ∀ (s : State) (v : Byte) (c : Context) (r : Record) (m : Mailbox), s.hardReset = false →
    s.engine.phase = .write → s.engine.ctx = some c → s.record c.slot = some r → r.content = .mailbox m →
    (c.refusing = false → c.collected.length < 32 → exec (.mailboxWriteByte v) s = .next { s with
      engine := { s.engine with ctx := some { c with collected := c.collected ++ [v] }, sda := .ack .due } }) ∧
    (c.refusing = true ∨ 32 ≤ c.collected.length → exec (.mailboxWriteByte v) s = .next { s with
      engine := { s.engine with ctx := some { c with refusing := true }, sda := .nack } })

/-- A read byte of a bank is the window byte at the bus pointer, or the pad 0xFF at the end of the window;
of a mailbox first the length of the head, which fixes it as the served message, or 0 for an empty queue,
then its bytes, then the pad; nothing else changes (R80, R90, R104, R105). That the event changes nothing while a
byte is being driven is the model's choice (log 2). -/
def Obligations.TheNextReadByteIsDriven : Prop :=
  ∀ (s : State) (c : Context) (r : Record), s.hardReset = false → s.engine.phase = .read →
    s.engine.ctx = some c → s.record c.slot = some r →
    (s.engine.sda.driving = true → exec .readByteDrive s = .next s) ∧
    (s.engine.sda.driving = false →
      (∀ b, r.content = .bank b → exec .readByteDrive s = .next { s with
        engine := { s.engine with
          sda := if b.pointer < b.size then .data .window (windowByte s.store b.blocks b.pointer) 0
                 else .data .pad 0xFF 0 } }) ∧
      (∀ m, r.content = .mailbox m → c.served = .unfixed → m.queue = [] →
        exec .readByteDrive s = .next { s with
          engine := { s.engine with ctx := some { c with served := .empty }, sda := .data .length 0 0 } }) ∧
      (∀ m k rest, r.content = .mailbox m → c.served = .unfixed → m.queue = k :: rest →
        exec .readByteDrive s = .next { s with
          engine := { s.engine with
            ctx := some { c with served := .message k }
            sda := .data .length (natByte (s.buffer k).length) 0 } }) ∧
      (∀ m, r.content = .mailbox m → c.served = .empty → exec .readByteDrive s = .next { s with
        engine := { s.engine with sda := .data .pad 0xFF 0 } }) ∧
      (∀ m k, r.content = .mailbox m → c.served = .message k → exec .readByteDrive s = .next { s with
        engine := { s.engine with
          sda := if c.headServed < (s.buffer k).length
                 then .data .message (((s.buffer k).bytes.take (s.buffer k).length).getD c.headServed 0) 0
                 else .data .pad 0xFF 0 } }))

/-- At the acknowledge clock, ACKed or NACKed alike, a window byte below the size advances the bus pointer
and a message byte counts as served; a length byte and a pad byte change neither; a NACK moves the engine
to READ_END; SDA is released (R70, R81, R82, R90, R106). -/
def Obligations.TheAcknowledgeCountsTheReadByte : Prop :=
  ∀ (s : State) (ack : Bool) (c : Context) (r : Record) (v : Byte) (n : Nat) (p : Phase), s.hardReset = false →
    s.engine.phase = .read → s.engine.ctx = some c → s.record c.slot = some r →
    p = (if ack then .read else .readEnd) →
    (∀ b, r.content = .bank b → s.engine.sda = .data .window v n → b.pointer < b.size →
      exec (.readByteAcknowledge ack) s = .next { s with
        table := s.table.set c.slot.val
          (some { r with content := .bank { b with pointer := b.pointer + 1 } }) c.slot.isLt
        engine := { s.engine with phase := p, sda := .released } }) ∧
    (s.engine.sda = .data .message v n → exec (.readByteAcknowledge ack) s = .next { s with
      engine := { s.engine with
        phase := p, ctx := some { c with headServed := c.headServed + 1 }, sda := .released } }) ∧
    (s.engine.sda = .data .length v n ∨ s.engine.sda = .data .pad v n →
      exec (.readByteAcknowledge ack) s = .next { s with
        engine := { s.engine with phase := p, sda := .released } })

/-- Every edge of SCL, rising or falling, in an open transaction past its address restarts a running stall timer
with the limit in force, and moves SDA: a due ACK is driven from the fall of the eighth clock and released at the
fall of the acknowledge clock, and the bits of a read byte follow each other at the falling edges, none after the
eighth. In a hold the first fall makes the part drive SCL low, and it stays low whatever edges follow. In every other
phase an edge changes nothing. The part pulls SDA low exactly for an ACK that is driven and for a 0 bit of a read
byte (R67 to R70, R119, R161). That an edge out of turn (a rise while an ACK is due or its clock high, a fall while
it is driven or at an even count) leaves SDA as it is, is the model's choice (logs 2 and 17). -/
def Obligations.AnSclEdgeRestartsTheStallTimer : Prop :=
  (∀ (s : State) (e : Edge) (x : Sda), s.hardReset = false →
    (s.engine.sda = .ack .due ∧ x = if e = .falling then .ack .driven else .ack .due) ∨
      (s.engine.sda = .ack .driven ∧ x = if e = .rising then .ack .clocked else .ack .driven) ∨
      (s.engine.sda = .ack .clocked ∧ x = if e = .falling then .released else .ack .clocked) ∨
      ((s.engine.sda = .released ∨ s.engine.sda = .nack) ∧ x = s.engine.sda) ∨
      (∃ source v n, s.engine.sda = .data source v n ∧
        x = .data source v
          (if n < 16 ∧ ((n % 2 = 0 ∧ e = .rising) ∨ (n % 2 = 1 ∧ e = .falling)) then n + 1 else n)) →
    (phaseSupervised s.engine.phase = true →
      exec (.sclEdge e) s = .next { s with engine := { s.engine with
        stallTimer := if s.engine.stallTimer = none then none else some s.stallLimit
        sda := x } }) ∧
    (s.engine.phase = .hold → exec (.sclEdge e) s = .next { s with engine := { s.engine with
      stretching := if e = .falling then true else s.engine.stretching } }) ∧
    (phaseSupervised s.engine.phase = false → s.engine.phase ≠ .hold → exec (.sclEdge e) s = .next s)) ∧
  (∀ s : State, s.sdaDriven = true ↔
    s.engine.sda = .ack .driven ∨ s.engine.sda = .ack .clocked ∨
    ∃ source v n, s.engine.sda = .data source v n ∧ n < 16 ∧ v.getLsbD (7 - n / 2) = false) ∧
  (∀ s : State, s.sclHeldLow = true ↔ s.engine.stretching = true)

/-! ## Conditions and the end of a transaction -/

/-- With nothing pinned, a START enters ADDRESS and a STOP enters LISTEN; in ADDRESS with the detaching
mark a STOP completes the detach and a START keeps the mark; a DETACHED engine ignores both. With an endpoint
pinned, each ends the transaction with its own cause (R72 to R74, R96). -/
def Obligations.ConditionsMoveTheEngine : Prop :=
  ∀ s : State, s.hardReset = false →
    (s.engine.phase = .detached →
      exec .startCondition s = .next s ∧ exec .stopCondition s = .next s) ∧
    (s.engine.phase = .listen ∨ s.engine.phase = .address ∨ s.engine.phase = .ignore ∨
        s.engine.phase = .recover →
      exec .startCondition s = .next { s with
        engine := { s.engine with phase := .address, sda := .released } }) ∧
    (s.engine.phase = .listen ∨ s.engine.phase = .ignore ∨ s.engine.phase = .recover ∨
        (s.engine.phase = .address ∧ s.engine.detaching = false) →
      exec .stopCondition s = .next { s with
        engine := { s.engine with phase := .listen, sda := .released } }) ∧
    (s.engine.phase = .address → s.engine.detaching = true →
      exec .stopCondition s = .next { s with
        engine := { s.engine with phase := .detached, detaching := false, sda := .released } }) ∧
    (phasePins s.engine.phase = true →
      exec .startCondition s = .next (s.endTransaction .start) ∧
      exec .stopCondition s = .next (s.endTransaction .stop))

/-- The end of an open write by STOP or repeated START completes its reservation into a WRITE notice of a
bank, with the start pointer and the collected data, or a MAILBOX_IN notice of a mailbox, or releases it
when nothing was collected; the Update Hold is applied, oldest entry first; then LISTEN after a STOP, DETACHED
under the mark, and ADDRESS with the mark kept after a START (R58, R77, R78, R96, R115, R141). The same holds
of a read without a served message. -/
def Obligations.AWriteEndsWithItsNotice : Prop :=
  ∀ (s : State) (c : Context) (r : Record) (q : NoticeQueue), s.hardReset = false →
    phasePins s.engine.phase = true → s.engine.ctx = some c → s.record c.slot = some r →
    r.state ≠ .retiring → (∀ k, c.served ≠ .message k) →
    q = (if c.reserved = false then s.notices
         else if c.collected = [] then { s.notices with reservation := false }
         else { s.notices with
           reservation := false
           completed := s.notices.completed ++ [{ slot := c.slot, tag := r.tag, body :=
             match r.content with
             | .bank _ => .write c.startPointer c.collected
             | .mailbox _ => .mailboxIn c.collected }] }) →
    exec .stopCondition s = .next { s with
      store := s.updateHold.foldl (applyHeld s.table) s.store
      updateHold := []
      notices := q
      engine := endedEngine (if s.engine.detaching then .detached else .listen) false } ∧
    exec .startCondition s = .next { s with
      store := s.updateHold.foldl (applyHeld s.table) s.store
      updateHold := []
      notices := q
      engine := endedEngine .address s.engine.detaching }

/-- The served message of a mailbox read is taken out of the queue and its buffer freed when it carries the
head-flushed mark, whatever the end, or when it was driven in full and the end is a STOP or a repeated
START; otherwise it stays at the head, an abandonment included (R107, R108, R163). A STOP and a repeated START do
this, apply the Update Hold and change nothing else but the engine: LISTEN after a STOP, DETACHED under the mark,
ADDRESS with the mark kept after a START (R77, R78, R96). -/
def Obligations.TheServedMessageIsSettled : Prop :=
  (∀ (s : State) (c : Context) (r : Record) (m : Mailbox) (k : BufferNo) (rest : List BufferNo) (cause : EndCause),
    s.engine.ctx = some c → s.record c.slot = some r → r.content = .mailbox m → r.state ≠ .retiring →
    c.reserved = false → c.served = .message k → m.queue = k :: rest → s.updateHold = [] →
    (m.headFlushed = true ∨
        ((cause = .stop ∨ cause = .start) ∧ c.headServed = (s.buffer k).length) →
      (s.endTransaction cause).record c.slot =
        some { r with content := .mailbox { m with queue := rest, headFlushed := false } } ∧
      (s.endTransaction cause).freeBuffers = poolInsert k s.freeBuffers ∧
      (s.endTransaction cause).notices = s.notices ∧ (s.endTransaction cause).store = s.store) ∧
    (m.headFlushed = false →
      ((cause ≠ .stop ∧ cause ≠ .start) ∨ c.headServed ≠ (s.buffer k).length) →
      (s.endTransaction cause).table = s.table ∧
      (s.endTransaction cause).freeBuffers = s.freeBuffers ∧
      (s.endTransaction cause).notices = s.notices ∧ (s.endTransaction cause).store = s.store)) ∧
  (∀ (s : State) (c : Context) (r : Record) (m : Mailbox) (k : BufferNo) (rest : List BufferNo),
    s.hardReset = false → phasePins s.engine.phase = true → s.engine.ctx = some c → s.record c.slot = some r →
    r.content = .mailbox m → r.state ≠ .retiring → c.reserved = false → c.served = .message k →
    m.queue = k :: rest →
    (m.headFlushed = true ∨ c.headServed = (s.buffer k).length →
      exec .stopCondition s = .next { s with
        table := s.table.set c.slot.val
          (some { r with content := .mailbox { m with queue := rest, headFlushed := false } }) c.slot.isLt
        freeBuffers := poolInsert k s.freeBuffers
        store := s.updateHold.foldl (applyHeld s.table) s.store
        updateHold := []
        engine := endedEngine (if s.engine.detaching then .detached else .listen) false } ∧
      exec .startCondition s = .next { s with
        table := s.table.set c.slot.val
          (some { r with content := .mailbox { m with queue := rest, headFlushed := false } }) c.slot.isLt
        freeBuffers := poolInsert k s.freeBuffers
        store := s.updateHold.foldl (applyHeld s.table) s.store
        updateHold := []
        engine := endedEngine .address s.engine.detaching }) ∧
    (m.headFlushed = false → c.headServed ≠ (s.buffer k).length →
      exec .stopCondition s = .next { s with
        store := s.updateHold.foldl (applyHeld s.table) s.store
        updateHold := []
        engine := endedEngine (if s.engine.detaching then .detached else .listen) false } ∧
      exec .startCondition s = .next { s with
        store := s.updateHold.foldl (applyHeld s.table) s.store
        updateHold := []
        engine := endedEngine .address s.engine.detaching }))

/-- At the end of a transaction on a bank that is not RETIRING, by any cause but RETIRE, every window byte
takes the value of the latest held entry that covers it and keeps its own where none does; no byte outside
the window changes, and the Update Hold is empty (R58, R60). -/
def Obligations.HeldLoadsAreAppliedAtTheEnd : Prop :=
  ∀ (s : State) (c : Context) (r : Record) (b : Bank) (cause : EndCause), s.engine.ctx = some c →
    s.record c.slot = some r → r.content = .bank b → r.state ≠ .retiring → cause ≠ .retire →
    s.store.wf = true → b.ranges → b.blocks.Nodup →
    (∀ h ∈ s.updateHold, h.slot = c.slot ∧ h.offset + h.data.length ≤ b.size) →
    (s.endTransaction cause).updateHold = [] ∧
    (s.endTransaction cause).store.wf = true ∧
    (∀ p, p < b.size → windowByte (s.endTransaction cause).store b.blocks p =
      match heldByte c.slot p s.updateHold with
      | some v => v
      | none => windowByte s.store b.blocks p) ∧
    (∀ a, (∀ p, p < b.size → windowCell b.blocks p ≠ some a) →
      memRead (s.endTransaction cause).store a = memRead s.store a)

/-- A deferred retirement is completed at the end of the transaction, by STOP, repeated START or
abandonment. A reservation is completed into a WRITE or MAILBOX_IN notice, or released; the held entries are
discarded; the record is freed with its blocks or its buffers, a served message's among them; and a RETIRED
notice with its slot and tag asks for an entry behind the data notice, or sets the overflow flag when none is
free. A STOP and a repeated START do nothing else (R25, R59, R77, R116, R138, R141). -/
def Obligations.ADeferredRetirementIsCompleted : Prop :=
  ∀ (s : State) (c : Context) (r : Record) (cause : EndCause) (q n : NoticeQueue), s.engine.ctx = some c →
    s.record c.slot = some r → r.state = .retiring →
    (∀ k, c.served = .message k → ∃ m rest, r.content = .mailbox m ∧ m.queue = k :: rest) →
    q = (if c.reserved = false then s.notices
         else if (cause = .stop ∨ cause = .start) ∧ c.collected ≠ [] then { s.notices with
           reservation := false
           completed := s.notices.completed ++ [{ slot := c.slot, tag := r.tag, body :=
             match r.content with
             | .bank _ => .write c.startPointer c.collected
             | .mailbox _ => .mailboxIn c.collected }] }
         else { s.notices with reservation := false }) →
    n = (if q.completed.length + q.reservation.toNat < 32 then
          { q with completed := q.completed ++ [{ slot := c.slot, tag := r.tag, body := .retired }] }
         else { q with overflow := true }) →
    ((s.endTransaction cause).record c.slot = none ∧
      (∀ j, j ≠ c.slot → (s.endTransaction cause).record j = s.record j) ∧
      (s.endTransaction cause).updateHold = [] ∧ (s.endTransaction cause).store = s.store ∧
      (s.endTransaction cause).freeBlocks = poolReturn (s.blocksOf c.slot) s.freeBlocks ∧
      (s.endTransaction cause).freeBuffers = poolReturn (s.queueOf c.slot) s.freeBuffers ∧
      (s.endTransaction cause).notices = n) ∧
    (s.hardReset = false → phasePins s.engine.phase = true →
      (cause = .stop → exec .stopCondition s = .next { s with
        table := s.table.set c.slot.val none c.slot.isLt
        freeBlocks := poolReturn (s.blocksOf c.slot) s.freeBlocks
        freeBuffers := poolReturn (s.queueOf c.slot) s.freeBuffers
        updateHold := []
        notices := n
        engine := endedEngine (if s.engine.detaching then .detached else .listen) false }) ∧
      (cause = .start → exec .startCondition s = .next { s with
        table := s.table.set c.slot.val none c.slot.isLt
        freeBlocks := poolReturn (s.blocksOf c.slot) s.freeBlocks
        freeBuffers := poolReturn (s.queueOf c.slot) s.freeBuffers
        updateHold := []
        notices := n
        engine := endedEngine .address s.engine.detaching }))

/-! ## Expiries -/

/-- A hold that reaches its limit ends with NACK: the endpoint is unpinned, the Update Hold applied,
HOLD_EXPIRED queued with slot, tag and reason, or lost with the overflow flag set, the counter rises, and
the engine is in IGNORE (R127, R128). -/
def Obligations.AHoldExpires : Prop :=
  ∀ (s : State) (c : Context) (r : Record) (reason : HoldReason) (q : NoticeQueue), s.hardReset = false →
    s.engine.phase = .hold → s.engine.ctx = some c → s.engine.holdTimer ≠ none →
    c.holdReason = some reason → c.reserved = false → c.served = .unfixed →
    s.record c.slot = some r → r.state ≠ .retiring →
    q = (if s.notices.completed.length + s.notices.reservation.toNat < 32 then
          { s.notices with completed := s.notices.completed ++
              [{ slot := c.slot, tag := r.tag, body := .holdExpired reason }] }
         else { s.notices with overflow := true }) →
    exec .holdExpiry s = .next { s with
      store := s.updateHold.foldl (applyHeld s.table) s.store
      updateHold := []
      notices := q
      engine := { endedEngine .ignore s.engine.detaching with sda := .nack }
      counters := { s.counters with
        holdExpiry := if s.counters.holdExpiry = 0xFFFF then 0xFFFF else s.counters.holdExpiry + 1 } }

/-- An abandonment releases the reservation and discards what was collected, applies the Update Hold,
queues BUS_STALL with the slot, the tag and the phase it had, or sets the overflow flag, counts it, and
enters RECOVER, or DETACHED under the mark. The served message of a mailbox read stays at the head, or is removed
when it carries the head-flushed mark. One that completes a deferred retirement discards the Update Hold, frees
the record and asks for RETIRED ahead of BUS_STALL: with two entries free both are queued, with one RETIRED takes
it and BUS_STALL sets the overflow flag, with none both are lost (R163, R164, R96, R107, R25, R138). -/
def Obligations.AStalledTransactionIsAbandoned : Prop :=
  (∀ (s : State) (c : Context) (r : Record) (room : Nat) (q : NoticeQueue), s.hardReset = false →
    phaseSupervised s.engine.phase = true → s.engine.ctx = some c → s.engine.stallTimer ≠ none →
    s.record c.slot = some r → r.state ≠ .retiring →
    (∀ m k, r.content = .mailbox m → c.served = .message k → m.headFlushed = false) →
    s.notices.reservation = c.reserved →
    room = s.notices.completed.length →
    q = (if room < 32 then
          { s.notices with
            reservation := false
            completed := s.notices.completed ++
              [{ slot := c.slot, tag := r.tag, body := .busStall s.engine.phase }] }
         else { s.notices with reservation := false, overflow := true }) →
    exec .abandonment s = .next { s with
      store := s.updateHold.foldl (applyHeld s.table) s.store
      updateHold := []
      notices := q
      engine := endedEngine (if s.engine.detaching then .detached else .recover) false
      counters := { s.counters with
        busStall := if s.counters.busStall = 0xFFFF then 0xFFFF else s.counters.busStall + 1 } }) ∧
  (∀ (s : State) (c : Context) (r : Record) (m : Mailbox) (k : BufferNo) (rest : List BufferNo) (q : NoticeQueue),
    s.hardReset = false → phaseSupervised s.engine.phase = true → s.engine.ctx = some c →
    s.engine.stallTimer ≠ none → s.record c.slot = some r → r.state ≠ .retiring → r.content = .mailbox m →
    c.served = .message k → m.queue = k :: rest → m.headFlushed = true → s.notices.reservation = c.reserved →
    q = (if s.notices.completed.length < 32 then
          { s.notices with
            reservation := false
            completed := s.notices.completed ++
              [{ slot := c.slot, tag := r.tag, body := .busStall s.engine.phase }] }
         else { s.notices with reservation := false, overflow := true }) →
    exec .abandonment s = .next { s with
      table := s.table.set c.slot.val
        (some { r with content := .mailbox { m with queue := rest, headFlushed := false } }) c.slot.isLt
      freeBuffers := poolInsert k s.freeBuffers
      store := s.updateHold.foldl (applyHeld s.table) s.store
      updateHold := []
      notices := q
      engine := endedEngine (if s.engine.detaching then .detached else .recover) false
      counters := { s.counters with
        busStall := if s.counters.busStall = 0xFFFF then 0xFFFF else s.counters.busStall + 1 } }) ∧
  (∀ (s : State) (c : Context) (r : Record) (room : Nat) (q : NoticeQueue), s.hardReset = false →
    phaseSupervised s.engine.phase = true → s.engine.ctx = some c → s.engine.stallTimer ≠ none →
    s.record c.slot = some r → r.state = .retiring →
    (∀ k, c.served = .message k → ∃ m rest, r.content = .mailbox m ∧ m.queue = k :: rest) →
    s.notices.reservation = c.reserved → room = s.notices.completed.length →
    q = (if room + 2 ≤ 32 then
          { s.notices with
            reservation := false
            completed := s.notices.completed ++
              [{ slot := c.slot, tag := r.tag, body := .retired },
               { slot := c.slot, tag := r.tag, body := .busStall s.engine.phase }] }
         else if room < 32 then
          { s.notices with
            reservation := false
            overflow := true
            completed := s.notices.completed ++ [{ slot := c.slot, tag := r.tag, body := .retired }] }
         else { s.notices with reservation := false, overflow := true }) →
    exec .abandonment s = .next { s with
      table := s.table.set c.slot.val none c.slot.isLt
      freeBlocks := poolReturn (s.blocksOf c.slot) s.freeBlocks
      freeBuffers := poolReturn (s.queueOf c.slot) s.freeBuffers
      updateHold := []
      notices := q
      engine := endedEngine (if s.engine.detaching then .detached else .recover) false
      counters := { s.counters with
        busStall := if s.counters.busStall = 0xFFFF then 0xFFFF else s.counters.busStall + 1 } }) ∧
  (∀ (s : State) (c : Context) (r : Record), s.hardReset = false → phaseSupervised s.engine.phase = true →
    s.engine.ctx = some c → s.engine.stallTimer ≠ none → s.record c.slot = some r → r.state = .retiring →
    s.notices.completed.length + 2 ≤ 32 → s.notices.reservation = c.reserved →
    ∃ t, exec .abandonment s = .next t ∧ t.record c.slot = none ∧
      t.notices.completed = s.notices.completed ++
        [{ slot := c.slot, tag := r.tag, body := .retired },
         { slot := c.slot, tag := r.tag, body := .busStall s.engine.phase }] ∧
      t.notices.reservation = false)

/-- A tick takes one off the count of a LIVE supervised record; the one that takes it to 0 is the expiry,
which sets stale, leaves the count at 0 and queues STALE with the slot and the tag, or sets the overflow flag. A
tick or an expiry of a slot that is FREE, or of a record that is STAGED, QUIESCED or RETIRING or has interval 0,
changes nothing, and neither does one of a record that is stale already with its count at 0: no second STALE
(R5, R152, R155). That the last tick and the expiry are one event is log 7. -/
def Obligations.TheFreshnessCountRunsDownInLive : Prop :=
  (∀ (s : State) (i : Slot) (r : Record) (q : NoticeQueue), s.hardReset = false → s.record i = some r →
    r.state = .live → r.interval ≠ 0 → r.remaining ≠ 0 →
    q = (if s.notices.completed.length + s.notices.reservation.toNat < 32 then
          { s.notices with completed := s.notices.completed ++ [{ slot := i, tag := r.tag, body := .stale }] }
         else { s.notices with overflow := true }) →
    (r.remaining ≠ 1 → exec (.freshnessTick i.val) s = .next { s with
      table := s.table.set i.val (some { r with remaining := r.remaining - 1 }) i.isLt }) ∧
    (r.remaining = 1 → r.stale = false →
      exec (.freshnessTick i.val) s = exec (.freshnessExpiry i.val) s ∧
      exec (.freshnessExpiry i.val) s = .next { s with
        table := s.table.set i.val (some { r with remaining := 0, stale := true }) i.isLt
        notices := q })) ∧
  (∀ (s : State) (i : Slot) (r : Record), s.hardReset = false → s.record i = some r →
    r.remaining = 0 → r.stale = true →
    exec (.freshnessTick i.val) s = .next s ∧ exec (.freshnessExpiry i.val) s = .next s) ∧
  (∀ (s : State) (n : Nat), s.hardReset = false →
    (∀ i : Slot, i.val = n → ∀ r, s.record i = some r → r.state ≠ .live ∨ r.interval = 0) →
    exec (.freshnessTick n) s = .next s ∧ exec (.freshnessExpiry n) s = .next s)

/-! ## Laws that every step keeps -/

/-- After a hardware reset every law of the device holds. -/
def Obligations.TheLawsHoldAtReset : Prop := Lawful State.reset

/-- The context stands exactly in the phases that pin, with the direction its phase has, the hold timer runs
exactly in HOLD and the stall timer exactly in POINTER, WRITE, READ and READ_END, the detaching mark stands
only where the spec lets it, SDA is driven only in POINTER, WRITE and READ and SCL only in HOLD, and a read byte is
in READ and has at most the 16 edges of its eight bits (R39, R69, R70, R72 to R75, R96, R119, R161). -/
def Obligations.EveryStepKeepsTheEngineLaws : Prop :=
  ∀ s t : State, EngineLaw s → LineLaw s → step s = .next t → EngineLaw t ∧ LineLaw t

/-- Completed entries plus reservation never exceed 32, data entries plus reservation never exceed 24, a
reservation exists only while the transaction that made it is open, and the credit stays at most 16 (R136,
R143). -/
def Obligations.EveryStepKeepsTheNoticeQueueLaw : Prop :=
  ∀ s t : State, EngineLaw s → NoticeLaw s → step s = .next t → NoticeLaw t

/-- The Register Store keeps its canonical form, and each of the 128 blocks is in the Free Block Pool or in
the block list of exactly one bank (R44, R45). -/
def Obligations.EveryStepKeepsTheBlockLaw : Prop :=
  ∀ s t : State, s.store.wf = true → BlockLaw s → step s = .next t → t.store.wf = true ∧ BlockLaw t

/-- Each of the 64 buffers is free or in the queue of exactly one mailbox, and the served message of an
open read is the head of its queue; every buffer has 32 bytes and a held one records 1 to 32 of them; and a
mailbox is head flushed only while a read of it with a served message is open (R98, R100, R104, R112). -/
def Obligations.EveryStepKeepsTheBufferLaw : Prop :=
  (∀ s t : State, EngineLaw s → BufferLaw s → ServedLaw s → step s = .next t → BufferLaw t ∧ ServedLaw t) ∧
  (∀ s t : State, BufferLaw s → MessageLaw s → step s = .next t → MessageLaw t) ∧
  (∀ s t : State, EngineLaw s → MarkLaw s → step s = .next t → MarkLaw t)

/-- Every record keeps its fields in their ranges, among them the bus pointer between 0 and the size and the
queue within the depth limit; a supervised record is stale exactly while its count is 0; and no two records of
equal specificity come to intersect (R2, R6, R7, R32, R81, R100, R151, R155). -/
def Obligations.EveryStepKeepsTheRecordLaws : Prop :=
  (∀ s t : State, RecordLaw s → OverlapLaw s → step s = .next t → RecordLaw t ∧ OverlapLaw t) ∧
  (∀ s t : State, FreshnessLaw s → step s = .next t → FreshnessLaw t)

/-- A pinned endpoint is neither FREE nor STAGED, a record is RETIRING only while it is pinned outside a
hold, and the Update Hold has at most 4 entries, all for the pinned endpoint, each of 1 to 48 bytes within the
window of its bank (R10, R22, R23, R51, R57). -/
def Obligations.EveryStepKeepsThePinLaws : Prop :=
  (∀ s t : State, EngineLaw s → PinLaw s → HoldLaw s → step s = .next t → PinLaw t ∧ HoldLaw t) ∧
  (∀ s t : State, EngineLaw s → PinLaw s → HoldLaw s → HeldRangeLaw s → step s = .next t →
    HeldRangeLaw t)

/-- The inbox and the Response Queue never hold more than 4 frames, and the frame on LTX is still held by
its source (R173, R177, R178, R145). -/
def Obligations.EveryStepKeepsTheLinkLaw : Prop :=
  ∀ s t : State, LinkLaw s → step s = .next t → LinkLaw t

/-- From INSTALL to FREE, no step changes a record's kind, address, mask, tag, interval, stale policy, size,
fill byte, write policy, fetch-on-read, block list, depth limit or accept-inbound setting (R8). -/
def Obligations.EveryStepKeepsWhatInstallFixed : Prop :=
  ∀ (s t : State) (i : Slot) (r : Record), step s = .next t → s.record i = some r →
    t.record i = none ∨ ∃ q, t.record i = some q ∧ SameFixedFields r q

/-- While a bank stays pinned, no step changes a byte of its window but a data byte written under APPLY
and a FILL that answers its FETCH hold (R50). -/
def Obligations.APinnedBanksBytesAreLeftAlone : Prop :=
  ∀ (s t : State) (c : Instr) (k d : Context) (r : Record) (b : Bank), BlockLaw s → s.store.wf = true →
    exec c s = .next t → s.engine.ctx = some k → s.record k.slot = some r → r.content = .bank b →
    t.engine.ctx = some d →
    (∀ v, c = .bankWriteByte v → b.policy ≠ .apply) →
    (∀ f, c = .fill → s.engine.phase = .hold → k.holdReason = some .fetch → s.link.inbox.head? = some f →
      (byteAt f.payload 0).toNat ≠ k.slot.val) →
    ∀ p, p < 16 * b.blocks.length → windowByte t.store b.blocks p = windowByte s.store b.blocks p
end

