-- ==== Sys2Proof/Laws/State.lean ====
section
/-! SUPPORT. One lemma per field per update of the state: what each named update leaves, and what it writes. -/

namespace Sys2Proof.Machine

/-! ## setRecord -/

@[simp] theorem State.setRecord_pending (s : State) (i : Slot) (o : Option Record) :
    (s.setRecord i o).pending = s.pending := rfl

@[simp] theorem State.setRecord_hardReset (s : State) (i : Slot) (o : Option Record) :
    (s.setRecord i o).hardReset = s.hardReset := rfl

@[simp] theorem State.setRecord_baud (s : State) (i : Slot) (o : Option Record) :
    (s.setRecord i o).baud = s.baud := rfl

@[simp] theorem State.setRecord_table (s : State) (i : Slot) (o : Option Record) :
    (s.setRecord i o).table = s.table.set i.val o i.isLt := rfl

@[simp] theorem State.setRecord_store (s : State) (i : Slot) (o : Option Record) :
    (s.setRecord i o).store = s.store := rfl

@[simp] theorem State.setRecord_freeBlocks (s : State) (i : Slot) (o : Option Record) :
    (s.setRecord i o).freeBlocks = s.freeBlocks := rfl

@[simp] theorem State.setRecord_updateHold (s : State) (i : Slot) (o : Option Record) :
    (s.setRecord i o).updateHold = s.updateHold := rfl

@[simp] theorem State.setRecord_engine (s : State) (i : Slot) (o : Option Record) :
    (s.setRecord i o).engine = s.engine := rfl

@[simp] theorem State.setRecord_buffers (s : State) (i : Slot) (o : Option Record) :
    (s.setRecord i o).buffers = s.buffers := rfl

@[simp] theorem State.setRecord_freeBuffers (s : State) (i : Slot) (o : Option Record) :
    (s.setRecord i o).freeBuffers = s.freeBuffers := rfl

@[simp] theorem State.setRecord_notices (s : State) (i : Slot) (o : Option Record) :
    (s.setRecord i o).notices = s.notices := rfl

@[simp] theorem State.setRecord_link (s : State) (i : Slot) (o : Option Record) :
    (s.setRecord i o).link = s.link := rfl

@[simp] theorem State.setRecord_counters (s : State) (i : Slot) (o : Option Record) :
    (s.setRecord i o).counters = s.counters := rfl

@[simp] theorem State.setRecord_holdLimit (s : State) (i : Slot) (o : Option Record) :
    (s.setRecord i o).holdLimit = s.holdLimit := rfl

@[simp] theorem State.setRecord_stallLimit (s : State) (i : Slot) (o : Option Record) :
    (s.setRecord i o).stallLimit = s.stallLimit := rfl

/-! ## setContent -/

@[simp] theorem State.setContent_pending (s : State) (i : Slot) (r : Record) (k : Content) :
    (s.setContent i r k).pending = s.pending := rfl

@[simp] theorem State.setContent_hardReset (s : State) (i : Slot) (r : Record) (k : Content) :
    (s.setContent i r k).hardReset = s.hardReset := rfl

@[simp] theorem State.setContent_baud (s : State) (i : Slot) (r : Record) (k : Content) :
    (s.setContent i r k).baud = s.baud := rfl

@[simp] theorem State.setContent_table (s : State) (i : Slot) (r : Record) (k : Content) :
    (s.setContent i r k).table = s.table.set i.val (some { r with content := k }) i.isLt := rfl

@[simp] theorem State.setContent_store (s : State) (i : Slot) (r : Record) (k : Content) :
    (s.setContent i r k).store = s.store := rfl

@[simp] theorem State.setContent_freeBlocks (s : State) (i : Slot) (r : Record) (k : Content) :
    (s.setContent i r k).freeBlocks = s.freeBlocks := rfl

@[simp] theorem State.setContent_updateHold (s : State) (i : Slot) (r : Record) (k : Content) :
    (s.setContent i r k).updateHold = s.updateHold := rfl

@[simp] theorem State.setContent_engine (s : State) (i : Slot) (r : Record) (k : Content) :
    (s.setContent i r k).engine = s.engine := rfl

@[simp] theorem State.setContent_buffers (s : State) (i : Slot) (r : Record) (k : Content) :
    (s.setContent i r k).buffers = s.buffers := rfl

@[simp] theorem State.setContent_freeBuffers (s : State) (i : Slot) (r : Record) (k : Content) :
    (s.setContent i r k).freeBuffers = s.freeBuffers := rfl

@[simp] theorem State.setContent_notices (s : State) (i : Slot) (r : Record) (k : Content) :
    (s.setContent i r k).notices = s.notices := rfl

@[simp] theorem State.setContent_link (s : State) (i : Slot) (r : Record) (k : Content) :
    (s.setContent i r k).link = s.link := rfl

@[simp] theorem State.setContent_counters (s : State) (i : Slot) (r : Record) (k : Content) :
    (s.setContent i r k).counters = s.counters := rfl

@[simp] theorem State.setContent_holdLimit (s : State) (i : Slot) (r : Record) (k : Content) :
    (s.setContent i r k).holdLimit = s.holdLimit := rfl

@[simp] theorem State.setContent_stallLimit (s : State) (i : Slot) (r : Record) (k : Content) :
    (s.setContent i r k).stallLimit = s.stallLimit := rfl

/-! ## writeWindow -/

@[simp] theorem State.writeWindow_pending (s : State) (b : Bank) (offset : Nat) (data : List Byte) :
    (s.writeWindow b offset data).pending = s.pending := rfl

@[simp] theorem State.writeWindow_hardReset (s : State) (b : Bank) (offset : Nat) (data : List Byte) :
    (s.writeWindow b offset data).hardReset = s.hardReset := rfl

@[simp] theorem State.writeWindow_baud (s : State) (b : Bank) (offset : Nat) (data : List Byte) :
    (s.writeWindow b offset data).baud = s.baud := rfl

@[simp] theorem State.writeWindow_table (s : State) (b : Bank) (offset : Nat) (data : List Byte) :
    (s.writeWindow b offset data).table = s.table := rfl

@[simp] theorem State.writeWindow_store (s : State) (b : Bank) (offset : Nat) (data : List Byte) :
    (s.writeWindow b offset data).store = windowWrite s.store b.blocks offset data := rfl

@[simp] theorem State.writeWindow_freeBlocks (s : State) (b : Bank) (offset : Nat) (data : List Byte) :
    (s.writeWindow b offset data).freeBlocks = s.freeBlocks := rfl

@[simp] theorem State.writeWindow_updateHold (s : State) (b : Bank) (offset : Nat) (data : List Byte) :
    (s.writeWindow b offset data).updateHold = s.updateHold := rfl

@[simp] theorem State.writeWindow_engine (s : State) (b : Bank) (offset : Nat) (data : List Byte) :
    (s.writeWindow b offset data).engine = s.engine := rfl

@[simp] theorem State.writeWindow_buffers (s : State) (b : Bank) (offset : Nat) (data : List Byte) :
    (s.writeWindow b offset data).buffers = s.buffers := rfl

@[simp] theorem State.writeWindow_freeBuffers (s : State) (b : Bank) (offset : Nat) (data : List Byte) :
    (s.writeWindow b offset data).freeBuffers = s.freeBuffers := rfl

@[simp] theorem State.writeWindow_notices (s : State) (b : Bank) (offset : Nat) (data : List Byte) :
    (s.writeWindow b offset data).notices = s.notices := rfl

@[simp] theorem State.writeWindow_link (s : State) (b : Bank) (offset : Nat) (data : List Byte) :
    (s.writeWindow b offset data).link = s.link := rfl

@[simp] theorem State.writeWindow_counters (s : State) (b : Bank) (offset : Nat) (data : List Byte) :
    (s.writeWindow b offset data).counters = s.counters := rfl

@[simp] theorem State.writeWindow_holdLimit (s : State) (b : Bank) (offset : Nat) (data : List Byte) :
    (s.writeWindow b offset data).holdLimit = s.holdLimit := rfl

@[simp] theorem State.writeWindow_stallLimit (s : State) (b : Bank) (offset : Nat) (data : List Byte) :
    (s.writeWindow b offset data).stallLimit = s.stallLimit := rfl

/-! ## raise -/

@[simp] theorem State.raise_pending (s : State) (n : Notice) :
    (s.raise n).pending = s.pending := rfl

@[simp] theorem State.raise_hardReset (s : State) (n : Notice) :
    (s.raise n).hardReset = s.hardReset := rfl

@[simp] theorem State.raise_baud (s : State) (n : Notice) :
    (s.raise n).baud = s.baud := rfl

@[simp] theorem State.raise_table (s : State) (n : Notice) :
    (s.raise n).table = s.table := rfl

@[simp] theorem State.raise_store (s : State) (n : Notice) :
    (s.raise n).store = s.store := rfl

@[simp] theorem State.raise_freeBlocks (s : State) (n : Notice) :
    (s.raise n).freeBlocks = s.freeBlocks := rfl

@[simp] theorem State.raise_updateHold (s : State) (n : Notice) :
    (s.raise n).updateHold = s.updateHold := rfl

@[simp] theorem State.raise_engine (s : State) (n : Notice) :
    (s.raise n).engine = s.engine := rfl

@[simp] theorem State.raise_buffers (s : State) (n : Notice) :
    (s.raise n).buffers = s.buffers := rfl

@[simp] theorem State.raise_freeBuffers (s : State) (n : Notice) :
    (s.raise n).freeBuffers = s.freeBuffers := rfl

@[simp] theorem State.raise_notices (s : State) (n : Notice) :
    (s.raise n).notices = s.notices.raise n := rfl

@[simp] theorem State.raise_link (s : State) (n : Notice) :
    (s.raise n).link = s.link := rfl

@[simp] theorem State.raise_counters (s : State) (n : Notice) :
    (s.raise n).counters = s.counters := rfl

@[simp] theorem State.raise_holdLimit (s : State) (n : Notice) :
    (s.raise n).holdLimit = s.holdLimit := rfl

@[simp] theorem State.raise_stallLimit (s : State) (n : Notice) :
    (s.raise n).stallLimit = s.stallLimit := rfl

/-! ## dropHead -/

@[simp] theorem State.dropHead_pending (s : State) :
    (s.dropHead).pending = s.pending := rfl

@[simp] theorem State.dropHead_hardReset (s : State) :
    (s.dropHead).hardReset = s.hardReset := rfl

@[simp] theorem State.dropHead_baud (s : State) :
    (s.dropHead).baud = s.baud := rfl

@[simp] theorem State.dropHead_table (s : State) :
    (s.dropHead).table = s.table := rfl

@[simp] theorem State.dropHead_store (s : State) :
    (s.dropHead).store = s.store := rfl

@[simp] theorem State.dropHead_freeBlocks (s : State) :
    (s.dropHead).freeBlocks = s.freeBlocks := rfl

@[simp] theorem State.dropHead_updateHold (s : State) :
    (s.dropHead).updateHold = s.updateHold := rfl

@[simp] theorem State.dropHead_engine (s : State) :
    (s.dropHead).engine = s.engine := rfl

@[simp] theorem State.dropHead_buffers (s : State) :
    (s.dropHead).buffers = s.buffers := rfl

@[simp] theorem State.dropHead_freeBuffers (s : State) :
    (s.dropHead).freeBuffers = s.freeBuffers := rfl

@[simp] theorem State.dropHead_notices (s : State) :
    (s.dropHead).notices = s.notices := rfl

@[simp] theorem State.dropHead_link (s : State) :
    (s.dropHead).link = { s.link with inbox := s.link.inbox.tail } := rfl

@[simp] theorem State.dropHead_counters (s : State) :
    (s.dropHead).counters = s.counters := rfl

@[simp] theorem State.dropHead_holdLimit (s : State) :
    (s.dropHead).holdLimit = s.holdLimit := rfl

@[simp] theorem State.dropHead_stallLimit (s : State) :
    (s.dropHead).stallLimit = s.stallLimit := rfl

/-! ## respond -/

@[simp] theorem State.respond_pending (s : State) (f : Frame) (reply : List Byte) :
    (s.respond f reply).pending = s.pending := rfl

@[simp] theorem State.respond_hardReset (s : State) (f : Frame) (reply : List Byte) :
    (s.respond f reply).hardReset = s.hardReset := rfl

@[simp] theorem State.respond_baud (s : State) (f : Frame) (reply : List Byte) :
    (s.respond f reply).baud = s.baud := rfl

@[simp] theorem State.respond_table (s : State) (f : Frame) (reply : List Byte) :
    (s.respond f reply).table = s.table := rfl

@[simp] theorem State.respond_store (s : State) (f : Frame) (reply : List Byte) :
    (s.respond f reply).store = s.store := rfl

@[simp] theorem State.respond_freeBlocks (s : State) (f : Frame) (reply : List Byte) :
    (s.respond f reply).freeBlocks = s.freeBlocks := rfl

@[simp] theorem State.respond_updateHold (s : State) (f : Frame) (reply : List Byte) :
    (s.respond f reply).updateHold = s.updateHold := rfl

@[simp] theorem State.respond_engine (s : State) (f : Frame) (reply : List Byte) :
    (s.respond f reply).engine = s.engine := rfl

@[simp] theorem State.respond_buffers (s : State) (f : Frame) (reply : List Byte) :
    (s.respond f reply).buffers = s.buffers := rfl

@[simp] theorem State.respond_freeBuffers (s : State) (f : Frame) (reply : List Byte) :
    (s.respond f reply).freeBuffers = s.freeBuffers := rfl

@[simp] theorem State.respond_notices (s : State) (f : Frame) (reply : List Byte) :
    (s.respond f reply).notices = s.notices := rfl

@[simp] theorem State.respond_link (s : State) (f : Frame) (reply : List Byte) :
    (s.respond f reply).link = { s.link with
      responses := s.link.responses ++ [responseFrame f reply]
      cache := some { seq := f.seq, response := responseFrame f reply } } := rfl

@[simp] theorem State.respond_counters (s : State) (f : Frame) (reply : List Byte) :
    (s.respond f reply).counters = s.counters := rfl

@[simp] theorem State.respond_holdLimit (s : State) (f : Frame) (reply : List Byte) :
    (s.respond f reply).holdLimit = s.holdLimit := rfl

@[simp] theorem State.respond_stallLimit (s : State) (f : Frame) (reply : List Byte) :
    (s.respond f reply).stallLimit = s.stallLimit := rfl

/-! ## setReceiver -/

@[simp] theorem State.setReceiver_pending (s : State) (x : Receiver) :
    (s.setReceiver x).pending = s.pending := rfl

@[simp] theorem State.setReceiver_hardReset (s : State) (x : Receiver) :
    (s.setReceiver x).hardReset = s.hardReset := rfl

@[simp] theorem State.setReceiver_baud (s : State) (x : Receiver) :
    (s.setReceiver x).baud = s.baud := rfl

@[simp] theorem State.setReceiver_table (s : State) (x : Receiver) :
    (s.setReceiver x).table = s.table := rfl

@[simp] theorem State.setReceiver_store (s : State) (x : Receiver) :
    (s.setReceiver x).store = s.store := rfl

@[simp] theorem State.setReceiver_freeBlocks (s : State) (x : Receiver) :
    (s.setReceiver x).freeBlocks = s.freeBlocks := rfl

@[simp] theorem State.setReceiver_updateHold (s : State) (x : Receiver) :
    (s.setReceiver x).updateHold = s.updateHold := rfl

@[simp] theorem State.setReceiver_engine (s : State) (x : Receiver) :
    (s.setReceiver x).engine = s.engine := rfl

@[simp] theorem State.setReceiver_buffers (s : State) (x : Receiver) :
    (s.setReceiver x).buffers = s.buffers := rfl

@[simp] theorem State.setReceiver_freeBuffers (s : State) (x : Receiver) :
    (s.setReceiver x).freeBuffers = s.freeBuffers := rfl

@[simp] theorem State.setReceiver_notices (s : State) (x : Receiver) :
    (s.setReceiver x).notices = s.notices := rfl

@[simp] theorem State.setReceiver_link (s : State) (x : Receiver) :
    (s.setReceiver x).link = { s.link with receiver := x } := rfl

@[simp] theorem State.setReceiver_counters (s : State) (x : Receiver) :
    (s.setReceiver x).counters = s.counters := rfl

@[simp] theorem State.setReceiver_holdLimit (s : State) (x : Receiver) :
    (s.setReceiver x).holdLimit = s.holdLimit := rfl

@[simp] theorem State.setReceiver_stallLimit (s : State) (x : Receiver) :
    (s.setReceiver x).stallLimit = s.stallLimit := rfl

/-! ## send -/

@[simp] theorem State.send_pending (s : State) (x : Sending) :
    (s.send x).pending = s.pending := rfl

@[simp] theorem State.send_hardReset (s : State) (x : Sending) :
    (s.send x).hardReset = s.hardReset := rfl

@[simp] theorem State.send_baud (s : State) (x : Sending) :
    (s.send x).baud = s.baud := rfl

@[simp] theorem State.send_table (s : State) (x : Sending) :
    (s.send x).table = s.table := rfl

@[simp] theorem State.send_store (s : State) (x : Sending) :
    (s.send x).store = s.store := rfl

@[simp] theorem State.send_freeBlocks (s : State) (x : Sending) :
    (s.send x).freeBlocks = s.freeBlocks := rfl

@[simp] theorem State.send_updateHold (s : State) (x : Sending) :
    (s.send x).updateHold = s.updateHold := rfl

@[simp] theorem State.send_engine (s : State) (x : Sending) :
    (s.send x).engine = s.engine := rfl

@[simp] theorem State.send_buffers (s : State) (x : Sending) :
    (s.send x).buffers = s.buffers := rfl

@[simp] theorem State.send_freeBuffers (s : State) (x : Sending) :
    (s.send x).freeBuffers = s.freeBuffers := rfl

@[simp] theorem State.send_notices (s : State) (x : Sending) :
    (s.send x).notices = s.notices := rfl

@[simp] theorem State.send_link (s : State) (x : Sending) :
    (s.send x).link = { s.link with sending := some x } := rfl

@[simp] theorem State.send_counters (s : State) (x : Sending) :
    (s.send x).counters = s.counters := rfl

@[simp] theorem State.send_holdLimit (s : State) (x : Sending) :
    (s.send x).holdLimit = s.holdLimit := rfl

@[simp] theorem State.send_stallLimit (s : State) (x : Sending) :
    (s.send x).stallLimit = s.stallLimit := rfl

/-! ## lineIdle -/

@[simp] theorem State.lineIdle_pending (s : State) :
    (s.lineIdle).pending = s.pending := rfl

@[simp] theorem State.lineIdle_hardReset (s : State) :
    (s.lineIdle).hardReset = s.hardReset := rfl

@[simp] theorem State.lineIdle_baud (s : State) :
    (s.lineIdle).baud = s.baud := rfl

@[simp] theorem State.lineIdle_table (s : State) :
    (s.lineIdle).table = s.table := rfl

@[simp] theorem State.lineIdle_store (s : State) :
    (s.lineIdle).store = s.store := rfl

@[simp] theorem State.lineIdle_freeBlocks (s : State) :
    (s.lineIdle).freeBlocks = s.freeBlocks := rfl

@[simp] theorem State.lineIdle_updateHold (s : State) :
    (s.lineIdle).updateHold = s.updateHold := rfl

@[simp] theorem State.lineIdle_engine (s : State) :
    (s.lineIdle).engine = s.engine := rfl

@[simp] theorem State.lineIdle_buffers (s : State) :
    (s.lineIdle).buffers = s.buffers := rfl

@[simp] theorem State.lineIdle_freeBuffers (s : State) :
    (s.lineIdle).freeBuffers = s.freeBuffers := rfl

@[simp] theorem State.lineIdle_notices (s : State) :
    (s.lineIdle).notices = s.notices := rfl

@[simp] theorem State.lineIdle_link (s : State) :
    (s.lineIdle).link = { s.link with sending := none } := rfl

@[simp] theorem State.lineIdle_counters (s : State) :
    (s.lineIdle).counters = s.counters := rfl

@[simp] theorem State.lineIdle_holdLimit (s : State) :
    (s.lineIdle).holdLimit = s.holdLimit := rfl

@[simp] theorem State.lineIdle_stallLimit (s : State) :
    (s.lineIdle).stallLimit = s.stallLimit := rfl

/-! ## enterPhase -/

@[simp] theorem State.enterPhase_pending (s : State) (p : Phase) :
    (s.enterPhase p).pending = s.pending := rfl

@[simp] theorem State.enterPhase_hardReset (s : State) (p : Phase) :
    (s.enterPhase p).hardReset = s.hardReset := rfl

@[simp] theorem State.enterPhase_baud (s : State) (p : Phase) :
    (s.enterPhase p).baud = s.baud := rfl

@[simp] theorem State.enterPhase_table (s : State) (p : Phase) :
    (s.enterPhase p).table = s.table := rfl

@[simp] theorem State.enterPhase_store (s : State) (p : Phase) :
    (s.enterPhase p).store = s.store := rfl

@[simp] theorem State.enterPhase_freeBlocks (s : State) (p : Phase) :
    (s.enterPhase p).freeBlocks = s.freeBlocks := rfl

@[simp] theorem State.enterPhase_updateHold (s : State) (p : Phase) :
    (s.enterPhase p).updateHold = s.updateHold := rfl

@[simp] theorem State.enterPhase_engine (s : State) (p : Phase) :
    (s.enterPhase p).engine = { s.engine with phase := p, sda := .released } := rfl

@[simp] theorem State.enterPhase_buffers (s : State) (p : Phase) :
    (s.enterPhase p).buffers = s.buffers := rfl

@[simp] theorem State.enterPhase_freeBuffers (s : State) (p : Phase) :
    (s.enterPhase p).freeBuffers = s.freeBuffers := rfl

@[simp] theorem State.enterPhase_notices (s : State) (p : Phase) :
    (s.enterPhase p).notices = s.notices := rfl

@[simp] theorem State.enterPhase_link (s : State) (p : Phase) :
    (s.enterPhase p).link = s.link := rfl

@[simp] theorem State.enterPhase_counters (s : State) (p : Phase) :
    (s.enterPhase p).counters = s.counters := rfl

@[simp] theorem State.enterPhase_holdLimit (s : State) (p : Phase) :
    (s.enterPhase p).holdLimit = s.holdLimit := rfl

@[simp] theorem State.enterPhase_stallLimit (s : State) (p : Phase) :
    (s.enterPhase p).stallLimit = s.stallLimit := rfl

end Sys2Proof.Machine
end

