-- ==== Sys2Proof/Laws/Memory.lean ====
section
/-! SUPPORT. The laws of the Register Store's cells and of the free pools: read after write, the canonical form kept by every write, and membership in a pool. -/

namespace Sys2Proof.Machine

/-! ## Cells -/

/-- No cell below the first address of a rising list. -/
theorem memRead_of_lt {m : Memory} {a : Nat} (h : ∀ c ∈ m, a < c.1) : memRead m a = 0 := by
  induction m with
  | nil => rfl
  | cons c m ih =>
    have hc := h c (by simp)
    have hm := ih fun d hd => h d (by simp [hd])
    obtain ⟨k, v⟩ := c
    simp only [memRead, hm]
    rw [if_neg (by simp at hc; omega)]

/-- Reading after a write: the byte written at its address, the old byte elsewhere. -/
theorem memRead_memWrite {m : Memory} (h : m.Pairwise fun c d => c.1 < d.1) (a x : Nat) (v : Byte) :
    memRead (memWrite m a v) x = if x = a then v else memRead m x := by
  induction m with
  | nil =>
    by_cases hv : v = 0
    · simp [memWrite, memRead, hv]
    · simp only [memWrite, hv, if_false, memRead]
      by_cases hx : x = a
      · simp [hx]
      · rw [if_neg hx, if_neg fun he => hx he.symm]
  | cons c m ih =>
    obtain ⟨k, w⟩ := c
    have hk : ∀ d ∈ m, k < d.1 := (List.pairwise_cons.1 h).1
    have ih := ih (List.pairwise_cons.1 h).2
    simp only [memWrite]
    split
    · rename_i hlt
      have hz : memRead ((k, w) :: m) a = 0 :=
        memRead_of_lt fun d hd => by
          rcases List.mem_cons.1 hd with rfl | hd
          · exact hlt
          · exact Nat.lt_trans hlt (hk d hd)
      split
      · rename_i hv
        by_cases hx : x = a
        · rw [hx, hz, if_pos rfl, hv]
        · rw [if_neg hx]
      · by_cases hx : x = a
        · simp [memRead, hx]
        · rw [if_neg hx]
          simp only [memRead]
          rw [if_neg fun he => hx he.symm]
    · split
      · rename_i hak
        subst hak
        split
        · rename_i hv
          by_cases hx : x = a
          · rw [hx, if_pos rfl, memRead_of_lt hk, hv]
          · rw [if_neg hx]
            simp only [memRead]
            rw [if_neg fun he => hx he.symm]
        · by_cases hx : x = a
          · simp [memRead, hx]
          · rw [if_neg hx]
            simp only [memRead]
            rw [if_neg fun he => hx he.symm, if_neg fun he => hx he.symm]
      · rename_i hlt hak
        simp only [memRead, ih]
        by_cases hx : x = a
        · subst hx
          simp [Ne.symm hak]
        · simp [hx]

/-- A write adds no address but its own. -/
theorem memWrite_mem {m : Memory} {a : Nat} {v : Byte} {c : Host.Cell} (h : c ∈ memWrite m a v) :
    c ∈ m ∨ (c = (a, v) ∧ v ≠ 0) := by
  induction m with
  | nil =>
    by_cases hv : v = 0
    · simp [memWrite, hv] at h
    · simp only [memWrite, hv, if_false, List.mem_singleton] at h
      exact Or.inr ⟨h, hv⟩
  | cons d m ih =>
    obtain ⟨k, w⟩ := d
    simp only [memWrite] at h
    split at h
    · split at h
      · exact Or.inl h
      · rename_i hv
        rcases List.mem_cons.1 h with h | h
        · exact Or.inr ⟨h, hv⟩
        · exact Or.inl h
    · split at h
      · split at h
        · exact Or.inl (List.mem_cons_of_mem _ h)
        · rename_i hv
          rcases List.mem_cons.1 h with h | h
          · exact Or.inr ⟨h, hv⟩
          · exact Or.inl (List.mem_cons_of_mem _ h)
      · rcases List.mem_cons.1 h with h | h
        · exact Or.inl (h ▸ List.mem_cons_self)
        · rcases ih h with h | h
          · exact Or.inl (List.mem_cons_of_mem _ h)
          · exact Or.inr h

/-- A write keeps the addresses strictly rising. -/
theorem memWrite_rising {m : Memory} (h : m.Pairwise fun c d => c.1 < d.1) (a : Nat) (v : Byte) :
    (memWrite m a v).Pairwise fun c d => c.1 < d.1 := by
  induction m with
  | nil =>
    simp only [memWrite]
    split <;> simp
  | cons c m ih =>
    obtain ⟨k, w⟩ := c
    obtain ⟨hk, hm⟩ := List.pairwise_cons.1 h
    simp only [memWrite]
    split
    · rename_i hlt
      split
      · exact h
      · refine List.pairwise_cons.2 ⟨fun d hd => ?_, h⟩
        rcases List.mem_cons.1 hd with rfl | hd
        · exact hlt
        · exact Nat.lt_trans hlt (hk d hd)
    · split
      · rename_i hak
        split
        · exact hm
        · exact List.pairwise_cons.2 ⟨fun d hd => hak ▸ hk d hd, hm⟩
      · rename_i hlt hak
        refine List.pairwise_cons.2 ⟨fun d hd => ?_, ih hm⟩
        rcases memWrite_mem hd with hd | ⟨rfl, -⟩
        · exact hk d hd
        · simp only
          omega

/-- The canonical form, spelt out. -/
theorem Memory.wf_iff {m : Memory} :
    m.wf = true ↔ (m.Pairwise fun c d => c.1 < d.1) ∧ ∀ c ∈ m, c.2 ≠ 0 ∧ c.1 < 2048 := by
  unfold Memory.wf Config.storeBytes
  rw [Bool.and_eq_true, decide_eq_true_iff, List.all_eq_true]
  refine and_congr_right fun _ => forall₂_congr fun c _ => ?_
  rw [Bool.and_eq_true, decide_eq_true_iff, bne_iff_ne]

/-- A write inside the store keeps the canonical form. -/
theorem memWrite_wf {m : Memory} (h : m.wf = true) {a : Nat} (ha : a < 2048) (v : Byte) :
    Memory.wf (memWrite m a v) = true := by
  rw [Memory.wf_iff] at h ⊢
  refine ⟨memWrite_rising h.1 a v, fun c hc => ?_⟩
  rcases memWrite_mem hc with hc | ⟨rfl, hv⟩
  · exact h.2 c hc
  · exact ⟨hv, ha⟩

/-! ## Windows -/

/-- Every window byte lies inside the store (R44, R48). -/
theorem windowCell_lt {blocks : List BlockNo} {p a : Nat} (h : windowCell blocks p = some a) : a < 2048 := by
  simp only [windowCell, Config.blockBytes, Option.map_eq_some_iff] at h
  obtain ⟨k, -, rfl⟩ := h
  have := k.isLt
  omega

/-- One window write keeps the canonical form. -/
theorem windowSet_wf {m : Memory} (h : m.wf = true) (blocks : List BlockNo) (p : Nat) (v : Byte) :
    Memory.wf (windowSet m blocks p v) = true := by
  unfold windowSet
  split
  · rename_i a ha
    exact memWrite_wf h (windowCell_lt ha) v
  · exact h

/-- A write of several window bytes keeps the canonical form. -/
theorem windowWrite_wf {m : Memory} (h : m.wf = true) (blocks : List BlockNo) (p : Nat) (data : List Byte) :
    Memory.wf (windowWrite m blocks p data) = true := by
  induction data generalizing m p with
  | nil => exact h
  | cons v data ih => exact ih (windowSet_wf h blocks p v) (p + 1)

/-- Applying a held entry keeps the canonical form (R58). -/
theorem applyHeld_wf {m : Memory} (h : m.wf = true) (table : Vector (Option Record) 48) (e : HeldLoad) :
    Memory.wf (applyHeld table m e) = true := by
  unfold applyHeld
  split
  · split
    · exact windowWrite_wf h _ _ _
    · exact h
  · exact h

/-- Applying the Update Hold keeps the canonical form (R58). -/
theorem applyHeld_foldl_wf {m : Memory} (h : m.wf = true) (table : Vector (Option Record) 48) (es : List HeldLoad) :
    Memory.wf (es.foldl (applyHeld table) m) = true := by
  induction es generalizing m with
  | nil => exact h
  | cons e es ih => exact ih (applyHeld_wf h table e)

/-- The store of the reset state is in canonical form: no cell is listed (R44). -/
theorem State.reset_store_wf : State.reset.store.wf = true := rfl

/-- Reading one store byte after one window write. -/
theorem memRead_windowSet {m : Memory} (h : m.wf = true) (blocks : List BlockNo) (p : Nat) (v : Byte) (x : Nat) :
    memRead (windowSet m blocks p v) x = if windowCell blocks p = some x then v else memRead m x := by
  unfold windowSet
  split
  · rename_i a ha
    rw [memRead_memWrite (Memory.wf_iff.1 h).1, ha]
    simp [eq_comm]
  · rename_i hn
    simp [hn]

/-- A store byte that no window position from `p` on maps to is left by a write there. -/
theorem memRead_windowWrite_other {m : Memory} (h : m.wf = true) (blocks : List BlockNo) (p : Nat)
    (data : List Byte) (x : Nat)
    (hx : ∀ k, k < data.length → windowCell blocks (p + k) ≠ some x) :
    memRead (windowWrite m blocks p data) x = memRead m x := by
  induction data generalizing m p with
  | nil => rfl
  | cons v data ih =>
    rw [windowWrite, ih (windowSet_wf h blocks p v), memRead_windowSet h]
    · rw [if_neg (by simpa using hx 0 (by simp))]
    · intro k hk
      have := hx (k + 1) (by simpa using hk)
      rwa [show p + 1 + k = p + (k + 1) by omega]

/-- Positions inside the window of a list without repeats map to different store bytes (R48). -/
theorem windowCell_inj {blocks : List BlockNo} (h : blocks.Nodup) {p q a : Nat}
    (hp : windowCell blocks p = some a) (hq : windowCell blocks q = some a) : p = q := by
  simp only [windowCell, Config.blockBytes, Option.map_eq_some_iff] at hp hq
  obtain ⟨k, hk, rfl⟩ := hp
  obtain ⟨l, hl, he⟩ := hq
  obtain ⟨hk1, hk2⟩ := List.getElem?_eq_some_iff.1 hk
  obtain ⟨hl1, hl2⟩ := List.getElem?_eq_some_iff.1 hl
  have hkl : l = k := Fin.ext (by omega)
  have hi : p / 16 = q / 16 := by
    have := (List.Nodup.getElem_inj_iff h (hi := hk1) (hj := hl1)).1 (by rw [hk2, hl2, hkl])
    exact this
  omega

/-- The byte of the window after a write: the data where it was written, the old byte elsewhere (R48, R52). -/
theorem windowByte_windowWrite {m : Memory} (h : m.wf = true) {blocks : List BlockNo} (hn : blocks.Nodup)
    (p : Nat) (data : List Byte) (x : Nat) (hx : x < 16 * blocks.length) :
    windowByte (windowWrite m blocks p data) blocks x =
      if p ≤ x ∧ x < p + data.length then data.getD (x - p) 0 else windowByte m blocks x := by
  have hc : ∃ a, windowCell blocks x = some a := by
    have : x / 16 < blocks.length := by omega
    exact ⟨blocks[x / 16].val * 16 + x % 16, by
      simp [windowCell, Config.blockBytes, List.getElem?_eq_getElem this]⟩
  obtain ⟨a, ha⟩ := hc
  simp only [windowByte, ha]
  induction data generalizing m p with
  | nil => simp [windowWrite]
  | cons v data ih =>
    rw [windowWrite, ih (windowSet_wf h blocks p v), memRead_windowSet h]
    by_cases hpx : p = x
    · subst hpx
      simp [ha]
    · have hne : windowCell blocks p ≠ some a := fun he => hpx (windowCell_inj hn he ha)
      rw [if_neg hne]
      by_cases hin : p + 1 ≤ x ∧ x < p + 1 + data.length
      · rw [if_pos hin, if_pos (by simp; omega)]
        have : x - p = (x - (p + 1)) + 1 := by omega
        simp [this]
      · rw [if_neg hin, if_neg (by simp; omega)]

/-! ## Pools -/

@[simp] theorem mem_poolInsert {n : Nat} {x y : Fin n} {pool : List (Fin n)} :
    y ∈ poolInsert x pool ↔ y = x ∨ y ∈ pool := by
  induction pool with
  | nil => simp [poolInsert]
  | cons z pool ih =>
    simp only [poolInsert]
    split
    · simp
    · split
      · rename_i hxz
        subst hxz
        simp
      · simp only [List.mem_cons, ih]
        tauto

/-- A pool stays ascending, and so without repeats. -/
theorem poolInsert_rising {n : Nat} {x : Fin n} {pool : List (Fin n)} (h : pool.Pairwise (· < ·)) :
    (poolInsert x pool).Pairwise (· < ·) := by
  induction pool with
  | nil => simp [poolInsert]
  | cons z pool ih =>
    obtain ⟨hz, hp⟩ := List.pairwise_cons.1 h
    simp only [poolInsert]
    split
    · rename_i hxz
      refine List.pairwise_cons.2 ⟨fun y hy => ?_, h⟩
      rcases List.mem_cons.1 hy with rfl | hy
      · exact hxz
      · exact lt_trans hxz (hz y hy)
    · split
      · exact h
      · rename_i hlt hne
        refine List.pairwise_cons.2 ⟨fun y hy => ?_, ih hp⟩
        rcases mem_poolInsert.1 hy with rfl | hy
        · omega
        · exact hz y hy

@[simp] theorem mem_poolReturn {n : Nat} {y : Fin n} {members pool : List (Fin n)} :
    y ∈ poolReturn members pool ↔ y ∈ members ∨ y ∈ pool := by
  induction members with
  | nil => simp [poolReturn]
  | cons x members ih =>
    have : poolReturn (x :: members) pool = poolInsert x (poolReturn members pool) := rfl
    rw [this, mem_poolInsert, ih, List.mem_cons, or_assoc]

theorem poolReturn_rising {n : Nat} {members pool : List (Fin n)} (h : pool.Pairwise (· < ·)) :
    (poolReturn members pool).Pairwise (· < ·) := by
  induction members with
  | nil => exact h
  | cons x members ih => exact poolInsert_rising ih

theorem poolInsert_comm_of_lt {n : Nat} {x y : Fin n} (h : x < y) (pool : List (Fin n)) :
    poolInsert x (poolInsert y pool) = poolInsert y (poolInsert x pool) := by
  have hyx : ¬y < x := Fin.not_lt.2 (Fin.le_of_lt h)
  induction pool with
  | nil => simp [poolInsert, h, hyx, Fin.ne_of_gt h]
  | cons z pool ih =>
    by_cases hxz : x < z
    · by_cases hyz : y < z
      · simp [poolInsert, hxz, hyz, h, hyx, Fin.ne_of_gt h]
      · by_cases he : y = z
        · simp [poolInsert, ← he, h, hyx, Fin.ne_of_gt h]
        · simp [poolInsert, hxz, hyz, he, hyx, Fin.ne_of_gt h]
    · have hyz : ¬y < z := fun hz => hxz (Fin.lt_trans h hz)
      have hne : y ≠ z := fun he => hxz (he ▸ h)
      by_cases he : x = z
      · simp [poolInsert, ← he, hyx, Fin.ne_of_gt h]
      · simp [poolInsert, hxz, hyz, hne, he, ih]

/-- The order in which two members are put back does not matter. -/
theorem poolInsert_comm {n : Nat} (x y : Fin n) (pool : List (Fin n)) :
    poolInsert x (poolInsert y pool) = poolInsert y (poolInsert x pool) := by
  rcases Nat.lt_trichotomy x.val y.val with h | h | h
  · exact poolInsert_comm_of_lt h pool
  · rw [Fin.ext h]
  · exact (poolInsert_comm_of_lt h pool).symm

/-- One member put back before the others, or with them, is the same (R25, R116). -/
theorem poolReturn_poolInsert {n : Nat} (x : Fin n) (members pool : List (Fin n)) :
    poolReturn members (poolInsert x pool) = poolReturn (x :: members) pool := by
  induction members with
  | nil => rfl
  | cons y members ih =>
    change poolInsert y (poolReturn members (poolInsert x pool)) = poolInsert x (poolInsert y (poolReturn members pool))
    rw [ih, poolInsert_comm x y]
    rfl

end Sys2Proof.Machine
end

