-- ==== Sys2Proof/Laws/Records.lean ====
section
/-! SUPPORT. What the operations on records do: replacing a record, freeing one, refreshing one, and the frames of each. -/

namespace Sys2Proof.Machine

/-! ## Reading a record back -/

/-- The record read after one is replaced: the new one in its slot, the old ones elsewhere. -/
theorem State.record_setRecord (s : State) (i j : Slot) (o : Option Record) :
    (s.setRecord i o).record j = if j = i then o else s.record j := by
  unfold State.record State.setRecord
  by_cases h : j = i
  · subst h
    simp
  · have : i.val ≠ j.val := fun he => h (Fin.ext he.symm)
    simp [h, this]

@[simp] theorem State.record_setRecord_same (s : State) (i : Slot) (o : Option Record) :
    (s.setRecord i o).record i = o := by simp [State.record_setRecord]

theorem State.record_setRecord_ne (s : State) {i j : Slot} (h : j ≠ i) (o : Option Record) :
    (s.setRecord i o).record j = s.record j := by simp [State.record_setRecord, h]

/-- Only the table decides what a record reads as. -/
theorem State.record_congr {s t : State} (h : t.table = s.table) (i : Slot) : t.record i = s.record i := by
  unfold State.record
  simp [h]

theorem State.record_setContent (s : State) (i j : Slot) (r : Record) (k : Content) :
    (s.setContent i r k).record j = if j = i then some { r with content := k } else s.record j :=
  s.record_setRecord i j _

/-- In the cleared table every slot is FREE (R1). -/
theorem State.record_clearBlocks (s : State) (i : Slot) : s.clearBlocks.record i = none := by
  simp [State.record, State.clearBlocks]

/-- After a hardware reset every slot is FREE (R1). -/
theorem State.record_reset (i : Slot) : State.reset.record i = none := by
  simp [State.record, State.reset]

/-! ## Freeing a record (R21, R47, R99) -/

/-- A record is freed with what it owns: its slot is FREE, its blocks or its buffers are back in their
pool, and nothing else changes. -/
theorem State.freeRecord_eq (s : State) (i : Slot) :
    s.freeRecord i = { s with
      table := s.table.set i.val none i.isLt
      freeBlocks := poolReturn (s.blocksOf i) s.freeBlocks
      freeBuffers := poolReturn (s.queueOf i) s.freeBuffers } := by
  unfold State.freeRecord State.blocksOf State.queueOf
  cases h : s.record i with
  | none =>
    have : s.table.set i.val none i.isLt = s.table := by
      ext k hk
      simp only [State.record] at h
      by_cases hik : i.val = k
      · subst hik
        simp [h]
      · simp [hik]
    simp [poolReturn, this]
  | some r =>
    cases hc : r.content with
    | bank b => simp [hc, State.setRecord, poolReturn]
    | mailbox m => simp [hc, State.setRecord, poolReturn]

theorem State.record_freeRecord (s : State) (i j : Slot) :
    (s.freeRecord i).record j = if j = i then none else s.record j := by
  rw [State.freeRecord_eq]
  exact s.record_setRecord i j none

@[simp] theorem State.freeRecord_pending (s : State) (i : Slot) : (s.freeRecord i).pending = s.pending := by
  rw [State.freeRecord_eq]
@[simp] theorem State.freeRecord_hardReset (s : State) (i : Slot) : (s.freeRecord i).hardReset = s.hardReset := by
  rw [State.freeRecord_eq]
@[simp] theorem State.freeRecord_baud (s : State) (i : Slot) : (s.freeRecord i).baud = s.baud := by
  rw [State.freeRecord_eq]
@[simp] theorem State.freeRecord_store (s : State) (i : Slot) : (s.freeRecord i).store = s.store := by
  rw [State.freeRecord_eq]
@[simp] theorem State.freeRecord_updateHold (s : State) (i : Slot) :
    (s.freeRecord i).updateHold = s.updateHold := by rw [State.freeRecord_eq]
@[simp] theorem State.freeRecord_engine (s : State) (i : Slot) : (s.freeRecord i).engine = s.engine := by
  rw [State.freeRecord_eq]
@[simp] theorem State.freeRecord_buffers (s : State) (i : Slot) : (s.freeRecord i).buffers = s.buffers := by
  rw [State.freeRecord_eq]
@[simp] theorem State.freeRecord_notices (s : State) (i : Slot) : (s.freeRecord i).notices = s.notices := by
  rw [State.freeRecord_eq]
@[simp] theorem State.freeRecord_link (s : State) (i : Slot) : (s.freeRecord i).link = s.link := by
  rw [State.freeRecord_eq]
@[simp] theorem State.freeRecord_counters (s : State) (i : Slot) : (s.freeRecord i).counters = s.counters := by
  rw [State.freeRecord_eq]
@[simp] theorem State.freeRecord_holdLimit (s : State) (i : Slot) : (s.freeRecord i).holdLimit = s.holdLimit := by
  rw [State.freeRecord_eq]
@[simp] theorem State.freeRecord_stallLimit (s : State) (i : Slot) :
    (s.freeRecord i).stallLimit = s.stallLimit := by rw [State.freeRecord_eq]

/-! ## Refreshing a record (R153) -/

/-- A refresh reloads the record of its slot and changes nothing else. -/
theorem State.refresh_eq (s : State) (i : Slot) :
    s.refresh i = { s with table := s.table.set i.val ((s.record i).map Record.reload) i.isLt } := by
  unfold State.refresh
  cases h : s.record i with
  | none =>
    have : s.table.set i.val none i.isLt = s.table := by
      ext k hk
      simp only [State.record] at h
      by_cases hik : i.val = k
      · subst hik
        simp [h]
      · simp [hik]
    simp [this]
  | some r => simp [State.setRecord]

theorem State.record_refresh (s : State) (i j : Slot) :
    (s.refresh i).record j = if j = i then (s.record i).map Record.reload else s.record j := by
  rw [State.refresh_eq]
  exact s.record_setRecord i j _

/-! ## Asking for a notice entry (R138) -/

/-- An event notice is queued at the tail when the total occupancy is below 32, and is otherwise lost
with the overflow flag set. -/
theorem NoticeQueue.raise_cases (q : NoticeQueue) (n : Notice) :
    (q.total < 32 ∧ q.raise n = { q with completed := q.completed ++ [n] }) ∨
    (32 ≤ q.total ∧ q.raise n = { q with overflow := true }) := by
  unfold NoticeQueue.raise NoticeQueue.hasRoom
  by_cases h : q.total < Config.noticeEntries
  · exact Or.inl ⟨h, by simp [h]⟩
  · exact Or.inr ⟨Nat.le_of_not_lt h, by simp [h]⟩

@[simp] theorem NoticeQueue.raise_reservation (q : NoticeQueue) (n : Notice) :
    (q.raise n).reservation = q.reservation := by
  rcases q.raise_cases n with ⟨-, h⟩ | ⟨-, h⟩ <;> rw [h]

@[simp] theorem NoticeQueue.raise_credit (q : NoticeQueue) (n : Notice) : (q.raise n).credit = q.credit := by
  rcases q.raise_cases n with ⟨-, h⟩ | ⟨-, h⟩ <;> rw [h]

@[simp] theorem NoticeQueue.raise_seq (q : NoticeQueue) (n : Notice) : (q.raise n).seq = q.seq := by
  rcases q.raise_cases n with ⟨-, h⟩ | ⟨-, h⟩ <;> rw [h]

/-- The reservation is granted exactly when none exists and both occupancies leave room (R141). -/
theorem NoticeQueue.canReserve_iff (q : NoticeQueue) :
    q.canReserve = true ↔ q.reservation = false ∧ q.dataTotal < 24 ∧ q.total < 32 := by
  simp [NoticeQueue.canReserve, Config.dataEntries, Config.noticeEntries, and_assoc]

@[simp] theorem State.record_raise (s : State) (n : Notice) (i : Slot) : (s.raise n).record i = s.record i := rfl

end Sys2Proof.Machine
end

