-- ==== Sys2Proof/Laws/Transaction.lean ====
section
/-! SUPPORT. The end of a transaction: what each of the four steps can change, the frame of the whole sequence, and what it leaves in the engine. -/

namespace Sys2Proof.Machine

/-! ## The four steps (R77) -/

/-- Step 1 changes the Notice Queue at most. -/
theorem State.settleReservation_frame (s : State) (c : Context) (cause : EndCause) :
    s.settleReservation c cause = { s with notices := (s.settleReservation c cause).notices } := by
  unfold State.settleReservation
  split
  · split
    · split <;> rfl
    · rfl
  · rfl

/-- Step 2 changes a record and the free buffers at most. -/
theorem State.settleHead_frame (s : State) (c : Context) (cause : EndCause) :
    s.settleHead c cause = { s with
      table := (s.settleHead c cause).table, freeBuffers := (s.settleHead c cause).freeBuffers } := by
  unfold State.settleHead
  split
  · split
    · split <;> rfl
    · rfl
  · rfl

/-- Step 3 changes the store at most, and empties the Update Hold. -/
theorem State.settleUpdateHold_frame (s : State) (c : Context) (cause : EndCause) :
    s.settleUpdateHold c cause = { s with
      store := (s.settleUpdateHold c cause).store, updateHold := [] } := by
  unfold State.settleUpdateHold
  split <;> rfl

/-- Step 4 changes the record, what it owns and the Notice Queue at most. -/
theorem State.settleRetirement_frame (s : State) (c : Context) :
    s.settleRetirement c = { s with
      table := (s.settleRetirement c).table
      freeBlocks := (s.settleRetirement c).freeBlocks
      freeBuffers := (s.settleRetirement c).freeBuffers
      notices := (s.settleRetirement c).notices } := by
  unfold State.settleRetirement
  split
  · split
    · simp only [State.freeRecord_eq, State.raise]
    · rfl
  · rfl

/-- Step 4 leaves the state as it is unless the record is RETIRING. -/
theorem State.settleRetirement_keeps {s : State} {c : Context} (h : s.retiring c.slot = false) :
    s.settleRetirement c = s := by
  unfold State.settleRetirement
  unfold State.retiring at h
  cases hr : s.record c.slot with
  | none => rfl
  | some r =>
    rw [hr] at h
    have : r.state ≠ .retiring := by simpa using h
    simp [this]

/-- Step 1 leaves the state as it is when nothing is reserved. -/
theorem State.settleReservation_keeps {s : State} {c : Context} {cause : EndCause}
    (h : c.reserved = false) : s.settleReservation c cause = s := by
  simp [State.settleReservation, h]

/-- Step 2 leaves the state as it is when there is no served message. -/
theorem State.settleHead_keeps {s : State} {c : Context} {cause : EndCause}
    (h : ∀ k, c.served ≠ .message k) : s.settleHead c cause = s := by
  unfold State.settleHead
  split
  · rename_i hs
    exact absurd hs (h _)
  · rfl

/-- Step 2 leaves the state as it is for a bank. -/
theorem State.settleHead_bank {s : State} {c : Context} {cause : EndCause} {r : Record} {b : Bank}
    (h : s.record c.slot = some r) (hb : r.content = .bank b) : s.settleHead c cause = s := by
  unfold State.settleHead
  split
  · rename_i hr _
    rw [h] at hr
    cases hr
    simp [hb]
  · rfl

/-! ## The unpin -/

/-- With nothing pinned there is nothing to unpin. -/
theorem State.unpin_none {s : State} (h : s.engine.ctx = none) (cause : EndCause) : s.unpin cause = s := by
  simp [State.unpin, h]

/-- The unpin of a pinned endpoint: the four steps, then no context, no timer and no hold of SCL. -/
theorem State.unpin_some {s : State} {c : Context} (h : s.engine.ctx = some c) (cause : EndCause) :
    s.unpin cause =
      { (((s.settleReservation c cause).settleHead c cause).settleUpdateHold c cause).settleRetirement c with
        engine := { s.engine with ctx := none, holdTimer := none, stallTimer := none, stretching := false } } := by
  simp only [State.unpin, h]
  rw [State.settleRetirement_frame, State.settleUpdateHold_frame, State.settleHead_frame,
    State.settleReservation_frame]

/-- What the unpin can change: the records, the store, the pools, the Update Hold, the Notice Queue and the
engine. Everything else stays. -/
theorem State.unpin_frame (s : State) (cause : EndCause) :
    s.unpin cause = { s with
      table := (s.unpin cause).table, store := (s.unpin cause).store
      freeBlocks := (s.unpin cause).freeBlocks, updateHold := (s.unpin cause).updateHold
      freeBuffers := (s.unpin cause).freeBuffers, notices := (s.unpin cause).notices
      engine := (s.unpin cause).engine } := by
  cases h : s.engine.ctx with
  | none => rw [State.unpin_none h]
  | some c =>
    rw [State.unpin_some h, State.settleRetirement_frame, State.settleUpdateHold_frame, State.settleHead_frame,
      State.settleReservation_frame]

/-- What the end of a transaction can change, and that everything else stays. -/
theorem State.endTransaction_frame (s : State) (cause : EndCause) :
    s.endTransaction cause = { s with
      table := (s.endTransaction cause).table, store := (s.endTransaction cause).store
      freeBlocks := (s.endTransaction cause).freeBlocks, updateHold := (s.endTransaction cause).updateHold
      freeBuffers := (s.endTransaction cause).freeBuffers, notices := (s.endTransaction cause).notices
      engine := (s.endTransaction cause).engine } := by
  unfold State.endTransaction
  rw [State.unpin_frame]

@[simp] theorem State.endTransaction_pending (s : State) (cause : EndCause) :
    (s.endTransaction cause).pending = s.pending := by
  rw [State.endTransaction_frame]

@[simp] theorem State.endTransaction_hardReset (s : State) (cause : EndCause) :
    (s.endTransaction cause).hardReset = s.hardReset := by
  rw [State.endTransaction_frame]

@[simp] theorem State.endTransaction_buffers (s : State) (cause : EndCause) :
    (s.endTransaction cause).buffers = s.buffers := by
  rw [State.endTransaction_frame]

@[simp] theorem State.endTransaction_link (s : State) (cause : EndCause) :
    (s.endTransaction cause).link = s.link := by
  rw [State.endTransaction_frame]

@[simp] theorem State.endTransaction_counters (s : State) (cause : EndCause) :
    (s.endTransaction cause).counters = s.counters := by
  rw [State.endTransaction_frame]

/-- The engine after the end of a transaction. -/
@[simp] theorem State.endTransaction_engine (s : State) (cause : EndCause) :
    (s.endTransaction cause).engine = (s.unpin cause).engine.afterEnd cause := rfl

/-- The engine after the unpin of a pinned endpoint: no context, no timer, SCL not held, the rest kept. -/
theorem State.unpin_engine {s : State} {c : Context} (h : s.engine.ctx = some c) (cause : EndCause) :
    (s.unpin cause).engine =
      { s.engine with ctx := none, holdTimer := none, stallTimer := none, stretching := false } := by
  rw [State.unpin_some h]

/-- The end of a transaction changes nothing outside the engine but what the unpin changes. -/
theorem State.endTransaction_eq (s : State) (cause : EndCause) :
    s.endTransaction cause =
      { s.unpin cause with engine := (s.unpin cause).engine.afterEnd cause } := rfl

/-- The common end: nothing reserved, no served message, no retirement. The Update Hold is applied, and
nothing else outside the engine changes (R58). -/
theorem State.endTransaction_plain {s : State} {c : Context} {cause : EndCause}
    (hc : s.engine.ctx = some c) (hr : c.reserved = false) (hs : ∀ k, c.served ≠ .message k)
    (hn : s.retiring c.slot = false) (hcause : cause ≠ .retire) :
    s.endTransaction cause = { s with
      store := s.updateHold.foldl (applyHeld s.table) s.store
      updateHold := []
      engine := Engine.afterEnd
        { s.engine with ctx := none, holdTimer := none, stallTimer := none, stretching := false } cause } := by
  have h3 : s.settleUpdateHold c cause =
      { s with store := s.updateHold.foldl (applyHeld s.table) s.store, updateHold := [] } := by
    simp [State.settleUpdateHold, hcause, hn]
  have h4 : State.retiring { s with
      store := s.updateHold.foldl (applyHeld s.table) s.store, updateHold := [] } c.slot = false := hn
  simp only [State.endTransaction, State.unpin_some hc, State.settleReservation_keeps hr,
    State.settleHead_keeps hs, h3, State.settleRetirement_keeps h4]

/-! ## The Notice Queue at the end of a transaction -/

/-- Every case of step 1: nothing reserved, the data notice, or the release. -/
theorem State.settleReservation_cases (s : State) (c : Context) (cause : EndCause) :
    (c.reserved = false ∧ s.settleReservation c cause = s) ∨
    (c.reserved = true ∧ ∃ r, s.record c.slot = some r ∧ cause.normal = true ∧ c.collected ≠ [] ∧
      s.settleReservation c cause = { s with notices := s.notices.complete (dataNotice r c) }) ∨
    (c.reserved = true ∧ s.settleReservation c cause = { s with notices := s.notices.release }) := by
  unfold State.settleReservation
  cases hr : c.reserved with
  | false => exact Or.inl ⟨rfl, rfl⟩
  | true =>
    simp only [if_true]
    split
    · rename_i r hrec
      split
      · rename_i h
        simp only [Bool.and_eq_true, Bool.not_eq_true', List.isEmpty_eq_false_iff] at h
        exact Or.inr (Or.inl ⟨trivial, r, hrec, h.1, h.2, rfl⟩)
      · exact Or.inr (Or.inr ⟨trivial, rfl⟩)
    · exact Or.inr (Or.inr ⟨trivial, rfl⟩)

/-- Every case of step 2: the served message leaves its mailbox, or nothing changes. -/
theorem State.settleHead_cases (s : State) (c : Context) (cause : EndCause) :
    s.settleHead c cause = s ∨
    ∃ r m k, s.record c.slot = some r ∧ r.content = .mailbox m ∧ c.served = .message k ∧
      s.settleHead c cause = s.removeServed c.slot r m k := by
  unfold State.settleHead
  split
  · rename_i r k hr hk
    split
    · rename_i m hm
      split
      · exact Or.inr ⟨r, m, k, hr, hm, hk, rfl⟩
      · exact Or.inl rfl
    · exact Or.inl rfl
  · exact Or.inl rfl

/-- Every case of step 4: a RETIRING record is freed and RETIRED asks for an entry, or nothing changes. -/
theorem State.settleRetirement_cases (s : State) (c : Context) :
    (s.retiring c.slot = false ∧ s.settleRetirement c = s) ∨
    ∃ r, s.record c.slot = some r ∧ r.state = .retiring ∧ s.settleRetirement c =
      (s.freeRecord c.slot).raise { slot := c.slot, tag := r.tag, body := .retired } := by
  cases h : s.retiring c.slot with
  | false => exact Or.inl ⟨rfl, State.settleRetirement_keeps h⟩
  | true =>
    unfold State.retiring at h
    unfold State.settleRetirement
    cases hr : s.record c.slot with
    | none =>
      rw [hr] at h
      cases h
    | some r =>
      rw [hr] at h
      have hs : r.state = .retiring := by simpa using h
      exact Or.inr ⟨r, rfl, hs, by simp [hs]⟩

/-- The end of a transaction only adds completed notices, at the tail. -/
theorem State.endTransaction_completed (s : State) (cause : EndCause) :
    ∃ l, (s.endTransaction cause).notices.completed = s.notices.completed ++ l := by
  unfold State.endTransaction
  cases hc : s.engine.ctx with
  | none =>
    rw [State.unpin_none hc]
    exact ⟨[], (List.append_nil _).symm⟩
  | some c =>
    rw [State.unpin_some hc]
    have h1 : ∃ l, (s.settleReservation c cause).notices.completed = s.notices.completed ++ l := by
      rcases s.settleReservation_cases c cause with ⟨-, h⟩ | ⟨-, r, -, -, -, h⟩ | ⟨-, h⟩ <;> rw [h]
      · exact ⟨[], (List.append_nil _).symm⟩
      · exact ⟨_, rfl⟩
      · exact ⟨[], (List.append_nil _).symm⟩
    obtain ⟨l, hl⟩ := h1
    have h3 : (((s.settleReservation c cause).settleHead c cause).settleUpdateHold c cause).notices.completed =
        s.notices.completed ++ l := by
      rw [State.settleUpdateHold_frame, State.settleHead_frame]
      exact hl
    rcases (((s.settleReservation c cause).settleHead c cause).settleUpdateHold c cause).settleRetirement_cases c
      with ⟨-, h⟩ | ⟨r, -, -, h⟩ <;> rw [h]
    · exact ⟨l, h3⟩
    · simp only [State.raise, State.freeRecord_notices]
      rcases NoticeQueue.raise_cases (((s.settleReservation c cause).settleHead c cause).settleUpdateHold c cause).notices
        { slot := c.slot, tag := r.tag, body := .retired } with ⟨-, h⟩ | ⟨-, h⟩ <;> rw [h]
      · exact ⟨l ++ [{ slot := c.slot, tag := r.tag, body := .retired }], by simp [h3]⟩
      · exact ⟨l, h3⟩

end Sys2Proof.Machine
end

