-- ==== Sys2Proof/Laws/Commands.lean ====
section
/-! SUPPORT. The Command Engine: when a frame is taken, what taking it does, and the effect of each command as one function, with the parts of the state no command effect touches. -/

namespace Sys2Proof.Machine

/-! ## Events and the hardware reset -/

/-- Outside the hardware reset an event has its effect. -/
theorem event_of_running {s : State} (h : s.hardReset = false) (effect : State → State) :
    event effect s = .next (effect s) := by simp [event, h]

/-- In the hardware reset nothing happens (log 14). -/
theorem event_in_reset {s : State} (h : s.hardReset = true) (effect : State → State) :
    event effect s = .next s := by simp [event, h]

/-- A counter stays at 65535 (R180). -/
theorem countUp_eq (n : Word16) : countUp n = if n = 0xFFFF then 0xFFFF else n + 1 := by
  unfold countUp
  split
  · assumption
  · rfl

/-! ## Taking a frame (R175, R176) -/

/-- A frame can be taken when the Response Queue has room and it is the inbox's head. -/
theorem takeable_eq_some {l : Link} {f : Frame} :
    takeable l = some f ↔ l.responses.length < 4 ∧ l.inbox.head? = some f := by
  unfold takeable
  split <;> simp_all [Config.responseEntries]

/-- A frame is no duplicate when the cache is invalid or has recorded another SEQ. -/
theorem isDuplicate_eq_false {l : Link} {f : Frame} :
    isDuplicate l f = false ↔ l.cache.map CacheEntry.seq ≠ some f.seq := by
  unfold isDuplicate
  cases l.cache <;> simp

/-- The slot a payload names. -/
theorem slotOf_eq_some {b : Byte} {i : Slot} : slotOf b = some i ↔ b.toNat = i.val := by
  unfold slotOf
  split
  · rw [Option.some.injEq, Fin.ext_iff]
  · rename_i h
    constructor
    · intro h'
      cases h'
    · intro h'
      exact absurd (h' ▸ i.isLt) h

theorem slotOf_eq_none {b : Byte} : slotOf b = none ↔ 48 ≤ b.toNat := by
  unfold slotOf
  split <;> simp <;> omega

/-- No two commands have the same code. -/
theorem commandCode_injective {c d : Command} (h : commandCode c = commandCode d) : c = d := by
  cases c <;> cases d <;> first | rfl | (exact absurd h (by decide))

/-- A code is a command code when some command has it. -/
theorem isCommandCode_iff {code : Byte} : isCommandCode code = true ↔ ∃ c, commandCode c = code := by
  constructor
  · intro h
    obtain ⟨c, -, hc⟩ := List.any_eq_true.1 h
    exact ⟨c, by simpa using hc⟩
  · rintro ⟨c, rfl⟩
    cases c <;> decide

/-- A state whose link is that of `s` without its head, after the answer. -/
theorem State.respond_eq {s t : State} (h : t.link = s.dropHead.link) (f : Frame) (reply : List Byte) :
    t.respond f reply = { t with link := answered s.link f reply } := by
  simp only [State.respond, h]
  rfl

/-- A refusal from the state without its head: only the link has changed. -/
theorem State.dropHead_respond (s : State) (f : Frame) (reply : List Byte) :
    s.dropHead.respond f reply = { s with link := answered s.link f reply } := rfl

/-- All that taking a frame as command `c` can do: nothing, the refusal of its length, or its effect. -/
theorem State.runCommand_cases (s : State) (c : Command) (effect : List Byte → State → Reply) :
    (s.runCommand c effect = s ∧ ∀ f, takeable s.link = some f → isDuplicate s.link f = false →
      f.code ≠ commandCode c) ∨
    (∃ f, takeable s.link = some f ∧ isDuplicate s.link f = false ∧ f.code = commandCode c ∧
      lengthAllowed c f.payload.length = false ∧
      s.runCommand c effect = { s with link := answered s.link f (badLengthReply c) }) ∨
    (∃ f, takeable s.link = some f ∧ isDuplicate s.link f = false ∧ f.code = commandCode c ∧
      lengthAllowed c f.payload.length = true ∧
      s.runCommand c effect =
        (effect f.payload s.dropHead).1.respond f (effect f.payload s.dropHead).2) := by
  unfold State.runCommand
  cases hf : takeable s.link with
  | none => exact Or.inl ⟨rfl, by simp⟩
  | some f =>
    by_cases hcode : f.code = commandCode c
    · cases hd : isDuplicate s.link f with
      | true =>
        refine Or.inl ⟨by simp [hcode, hd], fun g hg => ?_⟩
        cases hg
        simp [hd]
      | false =>
        cases hl : lengthAllowed c f.payload.length with
        | false => exact Or.inr (Or.inl ⟨f, rfl, hd, hcode, hl, by simp [hcode, hd, hl, State.dropHead_respond]⟩)
        | true => exact Or.inr (Or.inr ⟨f, rfl, hd, hcode, hl, by simp [hcode, hd, hl]⟩)
    · refine Or.inl ⟨by simp [hcode], fun g hg _ => ?_⟩
      cases hg
      exact hcode

/-- A command that is taken and whose length is allowed has its effect on the state without its head. -/
theorem State.runCommand_takes {s : State} {c : Command} {f : Frame} (h : Takes s c f)
    (effect : List Byte → State → Reply) :
    s.runCommand c effect = (effect f.payload s.dropHead).1.respond f (effect f.payload s.dropHead).2 := by
  obtain ⟨⟨-, hroom, hhead⟩, hfresh, hcode, hlen⟩ := h
  have ht : takeable s.link = some f := takeable_eq_some.2 ⟨hroom, hhead⟩
  have hd : isDuplicate s.link f = false := isDuplicate_eq_false.2 hfresh
  simp [State.runCommand, ht, hd, hcode, hlen]

/-- A command of a wrong length is refused, and only the link changes (R188). -/
theorem State.runCommand_badLength {s : State} {c : Command} {f : Frame} (ht : Takeable s f)
    (hf : Fresh s f) (hc : f.code = commandCode c) (hl : lengthAllowed c f.payload.length = false)
    (effect : List Byte → State → Reply) :
    s.runCommand c effect = { s with link := answered s.link f (badLengthReply c) } := by
  obtain ⟨-, hroom, hhead⟩ := ht
  have ht : takeable s.link = some f := takeable_eq_some.2 ⟨hroom, hhead⟩
  have hd : isDuplicate s.link f = false := isDuplicate_eq_false.2 hf
  simp [State.runCommand, ht, hd, hc, hl, State.dropHead_respond]

/-! ## The effects -/

/-- The effect of each command but RESET, which has no response and stands apart (R182). -/
def commandEffect : Command → List Byte → State → Reply
  | .identify => identifyEffect
  | .status => statusEffect
  | .reset => fun _ s => (s, [])
  | .credit => creditEffect
  | .attach => attachEffect
  | .detach => detachEffect
  | .holdLimit => holdLimitEffect
  | .stallLimit => stallLimitEffect
  | .install => installEffect
  | .activate => activateEffect
  | .quiesce => quiesceEffect
  | .resume => resumeEffect
  | .retire => retireEffect
  | .query => queryEffect
  | .lookup => lookupEffect
  | .touch => touchEffect
  | .load => loadEffect
  | .read => readEffect
  | .fill => fillEffect
  | .post => postEffect
  | .flush => flushEffect

/-- The step of every command but RESET. -/
theorem exec_commandInstr {c : Command} (hc : c ≠ .reset) (s : State) :
    exec (commandInstr c) s = event (fun s => s.runCommand c (commandEffect c)) s := by
  cases c <;> first | exact absurd rfl hc | rfl

/-- A command that is taken answers the state its effect leaves, with the answer in the link. -/
theorem exec_takes {s : State} {c : Command} {f : Frame} (hc : c ≠ .reset) (h : Takes s c f) :
    exec (commandInstr c) s = .next ((commandEffect c f.payload s.dropHead).1.respond f
      (commandEffect c f.payload s.dropHead).2) := by
  rw [exec_commandInstr hc, event_of_running h.1.1, State.runCommand_takes h]

/-! ## What no effect touches -/

/-- `t` has the link, the queue of waiting events and the reset's mark of `s`. -/
structure SameLink (s t : State) : Prop where
  link : t.link = s.link
  pending : t.pending = s.pending
  hardReset : t.hardReset = s.hardReset

theorem SameLink.refl (s : State) : SameLink s s := ⟨rfl, rfl, rfl⟩

theorem SameLink.trans {s t u : State} (h : SameLink s t) (k : SameLink t u) : SameLink s u :=
  ⟨k.link.trans h.link, k.pending.trans h.pending, k.hardReset.trans h.hardReset⟩

theorem sameLink_withSlot {p : List Byte} {s : State} {effect : Slot → Reply}
    (h : ∀ i, SameLink s (effect i).1) : SameLink s (withSlot p s effect).1 := by
  unfold withSlot
  split
  · exact SameLink.refl s
  · exact h _

theorem sameLink_withUsable {s : State} {i : Slot} {effect : Record → Reply}
    (h : ∀ r, SameLink s (effect r).1) : SameLink s (withUsable s i effect).1 := by
  unfold withUsable
  split
  · exact SameLink.refl s
  · split
    · exact SameLink.refl s
    · exact h _

theorem sameLink_withRecord {s : State} {i : Slot} {effect : Record → Reply}
    (h : ∀ r, SameLink s (effect r).1) : SameLink s (withRecord s i effect).1 := by
  unfold withRecord
  split
  · exact SameLink.refl s
  · exact h _

theorem sameLink_withBank {s : State} {r : Record} {effect : Bank → Reply}
    (h : ∀ b, SameLink s (effect b).1) : SameLink s (withBank s r effect).1 := by
  unfold withBank
  split
  · exact h _
  · exact SameLink.refl s

theorem sameLink_withMailbox {s : State} {r : Record} {effect : Mailbox → Reply}
    (h : ∀ m, SameLink s (effect m).1) : SameLink s (withMailbox s r effect).1 := by
  unfold withMailbox
  split
  · exact SameLink.refl s
  · exact h _

theorem sameLink_refresh (s : State) (i : Slot) : SameLink s (s.refresh i) := by
  rw [State.refresh_eq]
  exact ⟨rfl, rfl, rfl⟩

theorem sameLink_freeRecord (s : State) (i : Slot) : SameLink s (s.freeRecord i) :=
  ⟨s.freeRecord_link i, s.freeRecord_pending i, s.freeRecord_hardReset i⟩

theorem sameLink_endTransaction (s : State) (cause : EndCause) : SameLink s (s.endTransaction cause) :=
  ⟨s.endTransaction_link cause, s.endTransaction_pending cause, s.endTransaction_hardReset cause⟩

theorem sameLink_loadBank (s : State) (i : Slot) (b : Bank) (offset : Nat) (data : List Byte)
    (now later : Status) : SameLink s (s.loadBank i b offset data now later).1 := by
  unfold State.loadBank
  split
  · split
    · exact SameLink.trans (t := { s with updateHold := s.updateHold ++ [⟨i, offset, data⟩] })
        ⟨rfl, rfl, rfl⟩ (sameLink_refresh _ i)
    · exact SameLink.refl s
  · exact SameLink.trans (t := s.writeWindow b offset data) ⟨rfl, rfl, rfl⟩ (sameLink_refresh _ i)

/-- No command's effect touches the link, the queue or the reset's mark. -/
theorem sameLink_commandEffect (c : Command) (p : List Byte) (s : State) :
    SameLink s (commandEffect c p s).1 := by
  cases c <;> simp only [commandEffect]
  case identify => exact SameLink.refl s
  case status =>
    unfold statusEffect
    split
    · exact SameLink.refl s
    · split <;> exact ⟨rfl, rfl, rfl⟩
  case reset => exact SameLink.refl s
  case credit =>
    unfold creditEffect
    simp only
    split <;> exact ⟨rfl, rfl, rfl⟩
  case attach => exact ⟨rfl, rfl, rfl⟩
  case detach =>
    unfold detachEffect
    split
    · exact SameLink.refl s
    · exact sameLink_endTransaction s _
    · exact ⟨rfl, rfl, rfl⟩
    all_goals first | exact ⟨rfl, rfl, rfl⟩ | (split <;> exact ⟨rfl, rfl, rfl⟩)
  case holdLimit =>
    unfold holdLimitEffect
    split <;> exact ⟨rfl, rfl, rfl⟩
  case stallLimit =>
    unfold stallLimitEffect
    split <;> exact ⟨rfl, rfl, rfl⟩
  case install =>
    unfold installEffect
    split
    · exact SameLink.refl s
    · simp only [State.replyOk, State.installAt]
      split <;> exact ⟨rfl, rfl, rfl⟩
  case activate =>
    refine sameLink_withSlot fun i => sameLink_withRecord fun r => ?_
    split <;> exact ⟨rfl, rfl, rfl⟩
  case quiesce =>
    refine sameLink_withSlot fun i => sameLink_withRecord fun r => ?_
    split <;> exact ⟨rfl, rfl, rfl⟩
  case resume =>
    refine sameLink_withSlot fun i => sameLink_withRecord fun r => ?_
    split <;> exact ⟨rfl, rfl, rfl⟩
  case retire =>
    refine sameLink_withSlot fun i => sameLink_withUsable fun r => ?_
    split
    · split
      · exact (sameLink_endTransaction s _).trans (sameLink_freeRecord _ i)
      · exact ⟨rfl, rfl, rfl⟩
    · exact sameLink_freeRecord s i
  case query => exact sameLink_withSlot fun i => SameLink.refl s
  case lookup =>
    unfold lookupEffect
    split <;> exact ⟨rfl, rfl, rfl⟩
  case touch => exact sameLink_withSlot fun i => sameLink_withUsable fun r => sameLink_refresh s i
  case load =>
    refine sameLink_withSlot fun i => sameLink_withUsable fun r => sameLink_withBank fun b => ?_
    split
    · exact SameLink.refl s
    · exact sameLink_loadBank s i b _ _ _ _
  case read =>
    refine sameLink_withSlot fun i => ?_
    split
    · exact SameLink.refl s
    · refine sameLink_withRecord fun r => sameLink_withBank fun b => ?_
      split <;> exact SameLink.refl s
  case fill =>
    refine sameLink_withSlot fun i => sameLink_withUsable fun r => sameLink_withBank fun b => ?_
    split
    · exact SameLink.refl s
    · split
      · exact SameLink.trans (t := (s.writeWindow b _ _).refresh i)
          (SameLink.trans (t := s.writeWindow b _ _) ⟨rfl, rfl, rfl⟩ (sameLink_refresh _ i)) ⟨rfl, rfl, rfl⟩
      · exact sameLink_loadBank s i b _ _ _ _
  case post =>
    refine sameLink_withSlot fun i => ?_
    split
    · exact SameLink.refl s
    · refine sameLink_withUsable fun r => sameLink_withMailbox fun m => ?_
      split
      · exact SameLink.refl s
      · split <;> exact ⟨rfl, rfl, rfl⟩
  case flush =>
    refine sameLink_withSlot fun i => sameLink_withRecord fun r => sameLink_withMailbox fun m => ?_
    split <;> exact ⟨rfl, rfl, rfl⟩

/-- A command that is taken: the state its effect leaves, with the answered link. -/
theorem exec_takes_eq {s : State} {c : Command} {f : Frame} (hc : c ≠ .reset) (h : Takes s c f) :
    exec (commandInstr c) s = .next { (commandEffect c f.payload s.dropHead).1 with
      link := answered s.link f (commandEffect c f.payload s.dropHead).2 } := by
  rw [exec_takes hc h, State.respond_eq (sameLink_commandEffect c f.payload s.dropHead).link]

end Sys2Proof.Machine
end

