-- ==== Sys2Proof/Laws/Events.lean ====
section
/-! SUPPORT. Every command and event as one function of the state, what a step can answer, and the two rules by which a law of the state passes over a step. -/

namespace Sys2Proof.Machine

/-- What each command or event does outside the hardware reset. -/
def effectOf : Instr → State → State
  | .identify => fun s => s.runCommand .identify identifyEffect
  | .status => fun s => s.runCommand .status statusEffect
  | .reset => State.takeReset
  | .credit => fun s => s.runCommand .credit creditEffect
  | .attach => fun s => s.runCommand .attach attachEffect
  | .detach => fun s => s.runCommand .detach detachEffect
  | .holdLimit => fun s => s.runCommand .holdLimit holdLimitEffect
  | .stallLimit => fun s => s.runCommand .stallLimit stallLimitEffect
  | .install => fun s => s.runCommand .install installEffect
  | .activate => fun s => s.runCommand .activate activateEffect
  | .quiesce => fun s => s.runCommand .quiesce quiesceEffect
  | .resume => fun s => s.runCommand .resume resumeEffect
  | .retire => fun s => s.runCommand .retire retireEffect
  | .query => fun s => s.runCommand .query queryEffect
  | .lookup => fun s => s.runCommand .lookup lookupEffect
  | .touch => fun s => s.runCommand .touch touchEffect
  | .load => fun s => s.runCommand .load loadEffect
  | .read => fun s => s.runCommand .read readEffect
  | .fill => fun s => s.runCommand .fill fillEffect
  | .post => fun s => s.runCommand .post postEffect
  | .flush => fun s => s.runCommand .flush flushEffect
  | .unknownCommand => State.takeUnknown
  | .duplicate => State.takeDuplicate
  | .frameReceived crc => fun s => s.takeCrc crc
  | .framingError => State.framingError
  | .gapTimeout => State.gapTimeout
  | .linkReset => State.linkReset
  | .breakEnd => State.breakEnd
  | .frameStart => State.arbitrate
  | .frameSent => State.frameSent
  | .hardwareReset => State.beginHardReset
  | .hardwareResetEnd bsel1 bsel0 lrxHigh => fun s => s.endHardReset bsel1 bsel0 lrxHigh
  | .startCondition => State.startCondition
  | .stopCondition => State.stopCondition
  | .addressByte value => fun s => s.addressByte value
  | .pointerByte value => fun s => s.pointerByte value
  | .bankWriteByte value => fun s => s.bankWriteByte value
  | .mailboxWriteByte value => fun s => s.mailboxWriteByte value
  | .readByteDrive => State.readByteDrive
  | .readByteAcknowledge ack => fun s => s.readByteAcknowledge ack
  | .holdExpiry => State.holdExpiry
  | .abandonment => State.abandonment
  | .freshnessTick slot => fun s => s.freshnessTick slot
  | .freshnessExpiry slot => fun s => s.freshnessExpiry slot
  | .characterReceived value => fun s => s.takeCharacter value
  | .sclEdge edge => fun s => s.sclEdge edge

/-- The two events of the hardware reset, which the reset itself does not hold up (R181). -/
def isResetEvent : Instr → Bool
  | .hardwareReset => true
  | .hardwareResetEnd _ _ _ => true
  | _ => false

/-- Every command and event answers a next state: its effect, or in the hardware reset nothing. -/
theorem exec_eq (i : Instr) (s : State) :
    exec i s = .next (if s.hardReset && !isResetEvent i then s else effectOf i s) := by
  cases i <;> simp only [isResetEvent, Bool.not_true, Bool.not_false, Bool.and_true, Bool.and_false] <;> rfl

/-- Outside the hardware reset a command or event has its effect. -/
theorem exec_running {s : State} (h : s.hardReset = false) (i : Instr) : exec i s = .next (effectOf i s) := by
  simp [exec_eq, h]

/-- Every answer of `exec`: the state as it was, or the effect. -/
theorem exec_cases {i : Instr} {s t : State} (h : exec i s = .next t) : t = s ∨ t = effectOf i s := by
  rw [exec_eq] at h
  cases h
  split
  · exact Or.inl rfl
  · exact Or.inr rfl

/-- Every answer of `step`: nothing waited, or the front of the queue was taken. -/
theorem step_cases {s t : State} (h : step s = .next t) :
    (s.pending = [] ∧ t = s) ∨
    ∃ c rest, s.pending = c :: rest ∧ exec c { s with pending := rest } = .next t := by
  unfold step at h
  split at h
  · rename_i hp
    cases h
    exact Or.inl ⟨hp, rfl⟩
  · rename_i c rest hp
    exact Or.inr ⟨c, rest, hp, h⟩

/-- A law that the queue does not enter, and that every effect keeps, passes over every step. -/
theorem step_keeps {P : State → Prop} (hq : ∀ s rest, P s → P { s with pending := rest })
    (he : ∀ i s, P s → P (effectOf i s)) {s t : State} (hs : P s) (h : step s = .next t) : P t := by
  rcases step_cases h with ⟨-, rfl⟩ | ⟨c, rest, -, hc⟩
  · exact hs
  · rcases exec_cases hc with rfl | rfl
    · exact hq s rest hs
    · exact he c _ (hq s rest hs)

/-- A law that the link does not enter passes over every command whose effect keeps it. -/
theorem runCommand_keeps {P : State → Prop} (hl : ∀ s l, P s → P { s with link := l }) {s : State}
    {c : Command} {effect : List Byte → State → Reply} (he : ∀ p s, P s → P (effect p s).1) (hs : P s) :
    P (s.runCommand c effect) := by
  rcases s.runCommand_cases c effect with ⟨h, -⟩ | ⟨f, -, -, -, -, h⟩ | ⟨f, -, -, -, -, h⟩
  · rw [h]
    exact hs
  · rw [h]
    exact hl s _ hs
  · rw [h]
    exact hl _ _ (he _ _ (hl s _ hs))

end Sys2Proof.Machine
end

