-- ==== Sys2Proof/Laws/Link.lean ====
section
/-! SUPPORT. The management link: what each link event can change, and every case of the arbiter, of the release of a sent frame and of the grant of a SPACE hold. -/

namespace Sys2Proof.Machine

/-! ## Characters (R168) -/

/-- A character takes ten bit periods. -/
@[simp] theorem charBits_length (value : Byte) : (charBits value).length = 10 := by simp [charBits]

/-- A run of characters takes ten bit periods for each. -/
@[simp] theorem flatMap_charBits_length (bytes : List Byte) : (bytes.flatMap charBits).length = 10 * bytes.length := by
  induction bytes with
  | nil => rfl
  | cons v rest ih =>
    rw [List.flatMap_cons, List.length_append, ih, charBits_length, List.length_cons]
    omega

/-! ## The Link Receiver (R170 to R173) -/

/-- The end of a frame changes the link and the counters at most. -/
theorem State.endFrame_frame (s : State) (len : Nat) (got : List Byte) (crc : Byte) :
    s.endFrame len got crc = { s with
      link := (s.endFrame len got crc).link, counters := (s.endFrame len got crc).counters } := by
  unfold State.endFrame State.deliver
  split
  · split <;> rfl
  · rfl

/-- A character in HUNT changes the receiver at most. -/
theorem State.huntCharacter_frame (s : State) (v : Byte) :
    s.huntCharacter v = { s with link := (s.huntCharacter v).link } := by
  unfold State.huntCharacter
  split <;> rfl

/-- A character changes the link and the counters at most. -/
theorem State.takeCharacter_frame (s : State) (v : Byte) :
    s.takeCharacter v = { s with
      link := (s.takeCharacter v).link, counters := (s.takeCharacter v).counters } := by
  unfold State.takeCharacter
  split
  · rw [State.huntCharacter_frame]
  · split
    · rfl
    · rw [State.huntCharacter_frame]
  · split
    · rfl
    · rw [State.endFrame_frame]
  · rfl

/-- The CRC character changes the link and the counters at most. -/
theorem State.takeCrc_frame (s : State) (crc : Byte) :
    s.takeCrc crc = { s with link := (s.takeCrc crc).link, counters := (s.takeCrc crc).counters } := by
  unfold State.takeCrc
  split
  · split
    · rfl
    · rw [State.endFrame_frame]
  all_goals rfl

/-- A framing error changes the link and the counters at most. -/
theorem State.framingError_frame (s : State) :
    s.framingError = { s with link := s.framingError.link, counters := s.framingError.counters } := by
  unfold State.framingError
  split <;> rfl

/-- A gap changes the link and the counters at most. -/
theorem State.gapTimeout_frame (s : State) :
    s.gapTimeout = { s with link := s.gapTimeout.link, counters := s.gapTimeout.counters } := by
  unfold State.gapTimeout
  split <;> rfl

/-- The end of a break changes the link at most. -/
theorem State.breakEnd_frame (s : State) : s.breakEnd = { s with link := s.breakEnd.link } := by
  unfold State.breakEnd
  split <;> rfl

/-- A link reset changes the link and the Notice Queue at most (R174). -/
theorem State.linkReset_frame (s : State) :
    s.linkReset = { s with link := s.linkReset.link, notices := s.linkReset.notices } := by
  unfold State.linkReset
  split <;> rfl

/-! ## The Link Transmitter (R178, R145) -/

/-- What the arbiter can do: nothing, a HELLO, a response, or a notice under a credit of at least 1. -/
theorem State.arbitrate_cases (s : State) :
    s.arbitrate = s ∨
    (∃ cause, s.link.sending = none ∧ s.link.hello = some cause ∧
      s.arbitrate = s.send (.hello (helloFrame cause))) ∨
    (∃ f rest, s.link.sending = none ∧ s.link.responses = f :: rest ∧ s.arbitrate = s.send (.response f)) ∨
    (∃ n rest, s.link.sending = none ∧ s.link.responses = [] ∧ s.notices.completed = n :: rest ∧
      1 ≤ s.notices.credit ∧ s.arbitrate = s.startNotice n) := by
  unfold State.arbitrate
  have queued (h : s.link.sending = none) : s.startQueued = s ∨
      (∃ cause, s.link.sending = none ∧ s.link.hello = some cause ∧
        s.startQueued = s.send (.hello (helloFrame cause))) ∨
      (∃ f rest, s.link.sending = none ∧ s.link.responses = f :: rest ∧ s.startQueued = s.send (.response f)) ∨
      (∃ n rest, s.link.sending = none ∧ s.link.responses = [] ∧ s.notices.completed = n :: rest ∧
        1 ≤ s.notices.credit ∧ s.startQueued = s.startNotice n) := by
    unfold State.startQueued
    cases hr : s.link.responses with
    | cons f rest => exact Or.inr (Or.inr (Or.inl ⟨f, rest, h, rfl, rfl⟩))
    | nil =>
      cases hn : s.notices.completed with
      | nil => exact Or.inl rfl
      | cons n rest =>
        by_cases hc : 1 ≤ s.notices.credit
        · exact Or.inr (Or.inr (Or.inr ⟨n, rest, h, rfl, rfl, hc, by simp [hc]⟩))
        · exact Or.inl (by simp [hc])
  split
  · exact Or.inl rfl
  · rename_i h
    split
    · rename_i cause hc
      split
      · exact queued h
      · exact Or.inr (Or.inl ⟨cause, h, hc, rfl⟩)
    · exact queued h

/-- The arbiter changes the link and the Notice Queue at most. -/
theorem State.arbitrate_frame (s : State) :
    s.arbitrate = { s with link := s.arbitrate.link, notices := s.arbitrate.notices } := by
  rcases s.arbitrate_cases with h | ⟨cause, -, -, h⟩ | ⟨f, rest, -, -, h⟩ | ⟨n, rest, -, -, -, -, h⟩ <;> rw [h] <;> rfl

/-- What the grant of a SPACE hold can do: nothing, or the reservation and the ACK of the hold (R126). -/
theorem State.grantSpace_cases (s : State) :
    s.grantSpace = s ∨
    ∃ c r, s.engine.ctx = some c ∧ s.record c.slot = some r ∧ s.engine.phase = .hold ∧
      c.holdReason = some .space ∧ s.notices.canReserve = true ∧
      s.grantSpace = ({ s with notices := s.notices.reserve } : State).endHoldWithAck
        { c with reserved := true } (ackPhase r.content .write) := by
  unfold State.grantSpace
  split
  · exact Or.inl rfl
  · rename_i c hc
    split
    · exact Or.inl rfl
    · rename_i r hr
      split
      · rename_i h
        simp only [Bool.and_eq_true, decide_eq_true_eq, beq_iff_eq] at h
        exact Or.inr ⟨c, r, hc, hr, h.1.1, h.1.2, h.2, rfl⟩
      · exact Or.inl rfl

/-- The grant of a SPACE hold changes the Notice Queue and the engine at most. -/
theorem State.grantSpace_frame (s : State) :
    s.grantSpace = { s with notices := s.grantSpace.notices, engine := s.grantSpace.engine } := by
  rcases s.grantSpace_cases with h | ⟨c, r, -, -, -, -, -, h⟩
  · rw [h]
  · rw [h]
    rfl

/-- The release of a sent frame changes the link, the Notice Queue and the engine at most. -/
theorem State.releaseSent_frame (s : State) (x : Sending) :
    s.releaseSent x = { s with
      link := (s.releaseSent x).link, notices := (s.releaseSent x).notices, engine := (s.releaseSent x).engine } := by
  cases x with
  | hello f => rfl
  | response f => rfl
  | notice f o =>
    simp only [State.releaseSent, State.noticeSent]
    rw [State.grantSpace_frame]

/-- A frame sent changes the link, the Notice Queue and the engine at most. -/
theorem State.frameSent_frame (s : State) :
    s.frameSent = { s with
      link := s.frameSent.link, notices := s.frameSent.notices, engine := s.frameSent.engine } := by
  unfold State.frameSent
  split
  · rfl
  · rw [State.arbitrate_frame, State.releaseSent_frame]
    rfl

/-- The engine after a frame sent: that of the release. -/
theorem State.frameSent_some {s : State} {x : Sending} (h : s.link.sending = some x) :
    s.frameSent = (s.lineIdle.releaseSent x).arbitrate := by
  simp [State.frameSent, h]

/-- The arbiter leaves the engine as it is. -/
@[simp] theorem State.arbitrate_engine (s : State) : s.arbitrate.engine = s.engine := by
  rw [State.arbitrate_frame]

end Sys2Proof.Machine
end

