-- ==== Sys2Proof/Laws/Bus.lean ====
section
/-! SUPPORT. The served bus and the timers: what each of their events can change, and every case of the answer to an address byte. -/

namespace Sys2Proof.Machine

/-! ## The address byte (R36 to R39) -/

/-- The kinds of outcome: a NACK, or for an endpoint that is not QUIESCED a fetch of a read, a reservation
of a write, or an ACK that needs neither. -/
theorem addressOutcome_cases (r : Record) (d : Direction) :
    addressOutcome r d = .nack ∨
    (r.state ≠ .quiesced ∧
      ((addressOutcome r d = .fetch ∧ d = .read) ∨ (addressOutcome r d = .reserve ∧ d = .write) ∨
        addressOutcome r d = .ack)) := by
  unfold addressOutcome
  split
  · exact Or.inl rfl
  · rename_i hq
    split
    · exact Or.inl rfl
    · split
      · split
        · exact Or.inr ⟨hq, Or.inl ⟨rfl, rfl⟩⟩
        · exact Or.inr ⟨hq, Or.inr (Or.inr rfl)⟩
      · split
        · exact Or.inr ⟨hq, Or.inr (Or.inr rfl)⟩
        · exact Or.inr ⟨hq, Or.inr (Or.inr rfl)⟩
        · exact Or.inr ⟨hq, Or.inr (Or.inl ⟨rfl, rfl⟩)⟩
      · exact Or.inr ⟨hq, Or.inr (Or.inr rfl)⟩
      · split
        · exact Or.inr ⟨hq, Or.inr (Or.inl ⟨rfl, rfl⟩)⟩
        · exact Or.inl rfl

/-- What the answer to a resolved address byte can be: NACK, an ACK that reserves nothing, a FETCH hold, the
NACK of a FETCH that found no entry, an ACK with a reservation, or a SPACE hold. -/
theorem State.answerAddress_cases (s : State) (a : Address) (d : Direction) :
    s.answerAddress a d = s.nackAddress ∨
    ∃ i r, resolve s.table a = some (i, r) ∧
      ((addressOutcome r d = .ack ∧ s.answerAddress a d = s.ackAddress i r d false) ∨
      (addressOutcome r d = .fetch ∧ ∃ n : Notice, n = { slot := i, tag := r.tag, body := .fetch (contentPointer r.content) } ∧
        ((s.notices.hasRoom = true ∧ s.answerAddress a d = (s.raise n).holdAddress i r d .fetch) ∨
        (s.notices.hasRoom = false ∧ s.answerAddress a d = (s.raise n).nackAddress))) ∨
      (addressOutcome r d = .reserve ∧
        ((s.notices.canReserve = true ∧
          s.answerAddress a d = ({ s with notices := s.notices.reserve } : State).ackAddress i r d true) ∨
        (s.notices.canReserve = false ∧ s.answerAddress a d = s.holdAddress i r d .space)))) := by
  unfold State.answerAddress
  split
  · exact Or.inl rfl
  · rename_i i r hres
    split
    · exact Or.inl rfl
    · rename_i ho
      exact Or.inr ⟨i, r, hres, Or.inl ⟨ho, rfl⟩⟩
    · rename_i ho
      refine Or.inr ⟨i, r, hres, Or.inr (Or.inl ⟨ho, _, rfl, ?_⟩)⟩
      cases hr : s.notices.hasRoom with
      | true => exact Or.inl ⟨rfl, rfl⟩
      | false => exact Or.inr ⟨rfl, rfl⟩
    · rename_i ho
      refine Or.inr ⟨i, r, hres, Or.inr (Or.inr ⟨ho, ?_⟩)⟩
      cases hr : s.notices.canReserve with
      | true => exact Or.inl ⟨rfl, rfl⟩
      | false => exact Or.inr ⟨rfl, rfl⟩

/-- An address byte changes the Notice Queue and the engine at most. -/
theorem State.addressByte_frame (s : State) (v : Byte) :
    s.addressByte v = { s with notices := (s.addressByte v).notices, engine := (s.addressByte v).engine } := by
  unfold State.addressByte
  split
  · split
    · rfl
    · rcases s.answerAddress_cases (busAddress v) (busDirection v) with h | ⟨i, r, -, h⟩
      · rw [h]
        rfl
      · rcases h with ⟨-, h⟩ | ⟨-, n, -, ⟨-, h⟩ | ⟨-, h⟩⟩ | ⟨-, ⟨-, h⟩ | ⟨-, h⟩⟩ <;> rw [h] <;> rfl
  · rfl

/-! ## The bytes of a transaction -/

/-- The open transaction on a bank, taken apart. -/
theorem State.openBank_eq_some {s : State} {p : Phase} {c : Context} {r : Record} {b : Bank}
    (h : s.openBank p = some (c, r, b)) :
    s.engine.phase = p ∧ s.engine.ctx = some c ∧ s.record c.slot = some r ∧ r.content = .bank b := by
  unfold State.openBank at h
  split at h
  · rename_i hp
    split at h
    · cases h
    · rename_i c' hc
      split at h
      · cases h
      · rename_i r' hr
        split at h
        · rename_i b' hb
          cases h
          exact ⟨hp, hc, hr, hb⟩
        · cases h
  · cases h

/-- The open transaction on a mailbox, taken apart. -/
theorem State.openMailbox_eq_some {s : State} {p : Phase} {c : Context} {r : Record} {m : Mailbox}
    (h : s.openMailbox p = some (c, r, m)) :
    s.engine.phase = p ∧ s.engine.ctx = some c ∧ s.record c.slot = some r ∧ r.content = .mailbox m := by
  unfold State.openMailbox at h
  split at h
  · rename_i hp
    split at h
    · cases h
    · rename_i c' hc
      split at h
      · cases h
      · rename_i r' hr
        split at h
        · cases h
        · rename_i m' hm
          cases h
          exact ⟨hp, hc, hr, hm⟩
  · cases h

/-- A pointer byte changes the record of the bank and the engine at most (R84). -/
theorem State.pointerByte_frame (s : State) (v : Byte) :
    s.pointerByte v = { s with table := (s.pointerByte v).table, engine := (s.pointerByte v).engine } := by
  unfold State.pointerByte
  split
  · rfl
  · split <;> rfl

/-- A data byte of a bank write changes the store, the record of the bank and the engine at most. -/
theorem State.bankWriteByte_frame (s : State) (v : Byte) :
    s.bankWriteByte v = { s with
      store := (s.bankWriteByte v).store, table := (s.bankWriteByte v).table
      engine := (s.bankWriteByte v).engine } := by
  unfold State.bankWriteByte State.applyByte State.forwardByte
  split
  · rfl
  · split
    · rfl
    · split
      · rfl
      · split <;> rfl
      · split <;> rfl

/-- A data byte of a mailbox write changes the engine at most. -/
theorem State.mailboxWriteByte_frame (s : State) (v : Byte) :
    s.mailboxWriteByte v = { s with engine := (s.mailboxWriteByte v).engine } := by
  unfold State.mailboxWriteByte
  split
  · rfl
  · split <;> rfl

/-- Driving a read byte changes the engine at most. -/
theorem State.readByteDrive_frame (s : State) :
    s.readByteDrive = { s with engine := s.readByteDrive.engine } := by
  unfold State.readByteDrive State.driveBank State.driveMailbox
  split
  · rfl
  · split
    · split <;> rfl
    · split
      · split <;> rfl
      · rfl
      · split <;> rfl
    · rfl

/-- What an acknowledge counts changes the record and the engine at most. -/
theorem State.countDriven_frame (s : State) (x : ReadSource) :
    s.countDriven x = { s with table := (s.countDriven x).table, engine := (s.countDriven x).engine } := by
  unfold State.countDriven
  split
  · split
    · split <;> rfl
    · rfl
  · split <;> rfl
  all_goals rfl

/-- An acknowledge changes the record of the bank and the engine at most (R81). -/
theorem State.readByteAcknowledge_frame (s : State) (ack : Bool) :
    s.readByteAcknowledge ack = { s with
      table := (s.readByteAcknowledge ack).table, engine := (s.readByteAcknowledge ack).engine } := by
  unfold State.readByteAcknowledge
  split
  · split
    · simp only [State.enterPhase]
      rw [State.countDriven_frame]
    all_goals rfl
  · rfl

/-- An SCL edge changes the engine at most (R161). -/
theorem State.sclEdge_frame (s : State) (edge : Edge) :
    s.sclEdge edge = { s with engine := (s.sclEdge edge).engine } := by
  unfold State.sclEdge
  repeat' split
  all_goals rfl

/-- An SCL edge starts and ends no read byte: the part drives one after it exactly when it did before. -/
@[simp] theorem Sda.driving_atEdge (edge : Edge) (x : Sda) : (x.atEdge edge).driving = x.driving := by
  rcases x with _ | stage | _ | ⟨source, value, edges⟩
  · rfl
  · cases stage <;> cases edge <;> rfl
  · rfl
  · rfl

/-- An SCL edge makes no ACK out of anything else (R68). -/
theorem Sda.ack_of_atEdge {edge : Edge} {x : Sda} {stage : AckStage} (h : x.atEdge edge = .ack stage) :
    ∃ k, x = .ack k := by
  cases x with
  | ack k => exact ⟨k, rfl⟩
  | released => cases h
  | nack => cases h
  | data source value edges => cases h

/-- A read byte sees at most 16 edges (R70). -/
theorem bitEdge_le (edge : Edge) {edges : Nat} (h : edges ≤ 16) : bitEdge edge edges ≤ 16 := by
  unfold bitEdge
  split <;> omega

/-- The part pulls SDA low only for an ACK or for a read byte (R67). -/
theorem State.sdaDriven_cases {s : State} (h : s.sdaDriven = true) :
    (∃ stage, s.engine.sda = .ack stage) ∨ s.engine.sda.driving = true := by
  unfold State.sdaDriven at h
  split at h <;> simp_all [Sda.driving]

/-! ## Conditions and expiries -/

/-- What a START can do: nothing, the phase ADDRESS, or the end of the transaction. -/
theorem State.startCondition_cases (s : State) :
    (s.engine.phase = .detached ∧ s.startCondition = s) ∨
    (phasePins s.engine.phase = false ∧ s.engine.phase ≠ .detached ∧ s.startCondition = s.enterPhase .address) ∨
    (phasePins s.engine.phase = true ∧ s.startCondition = s.endTransaction .start) := by
  unfold State.startCondition
  cases h : s.engine.phase <;> simp [phasePins]

/-- What a STOP can do: nothing, the phase LISTEN, the detach that was waiting in ADDRESS, or the end of the
transaction. -/
theorem State.stopCondition_cases (s : State) :
    (s.engine.phase = .detached ∧ s.stopCondition = s) ∨
    (phasePins s.engine.phase = false ∧ (s.engine.phase = .address → s.engine.detaching = false) ∧
      s.engine.phase ≠ .detached ∧ s.stopCondition = s.enterPhase .listen) ∨
    (s.engine.phase = .address ∧ s.engine.detaching = true ∧ s.stopCondition = { s with
      engine := { s.engine with phase := .detached, detaching := false, sda := .released } }) ∨
    (phasePins s.engine.phase = true ∧ s.stopCondition = s.endTransaction .stop) := by
  unfold State.stopCondition
  cases h : s.engine.phase <;> simp [phasePins]
  cases hd : s.engine.detaching <;> simp

/-- What a hold expiry can do: nothing, or the end of the held transaction, its notice and its count. -/
theorem State.holdExpiry_cases (s : State) :
    s.holdExpiry = s ∨
    ∃ c reason n, s.engine.ctx = some c ∧ c.holdReason = some reason ∧ s.engine.phase = .hold ∧
      n = ({ slot := c.slot, tag := s.tagOf c.slot, body := .holdExpired reason } : Notice) ∧
      s.holdExpiry = { (s.endTransaction .expiry).raise n with
        counters := { s.counters with holdExpiry := countUp s.counters.holdExpiry } } := by
  unfold State.holdExpiry
  split
  · exact Or.inl rfl
  · rename_i c hc
    split
    · exact Or.inl rfl
    · rename_i reason hreason
      split
      · rename_i h
        refine Or.inr ⟨c, reason, _, hc, hreason, h.1, rfl, ?_⟩
        simp only [State.raise_counters, State.endTransaction_counters]
      · exact Or.inl rfl

/-- What an abandonment can do: nothing, or the end of the transaction, its notice and its count. -/
theorem State.abandonment_cases (s : State) :
    s.abandonment = s ∨
    ∃ c n, s.engine.ctx = some c ∧ phaseSupervised s.engine.phase = true ∧
      n = ({ slot := c.slot, tag := s.tagOf c.slot, body := .busStall s.engine.phase } : Notice) ∧
      s.abandonment = { (s.endTransaction .abandonment).raise n with
        counters := { s.counters with busStall := countUp s.counters.busStall } } := by
  unfold State.abandonment
  split
  · exact Or.inl rfl
  · rename_i c hc
    split
    · rename_i h
      rw [Bool.and_eq_true] at h
      refine Or.inr ⟨c, _, hc, h.1, rfl, ?_⟩
      simp only [State.raise_counters, State.endTransaction_counters]
    · exact Or.inl rfl

/-- What a freshness tick can do: nothing, one off the count, or the expiry. -/
theorem State.freshnessTick_cases (s : State) (n : Nat) :
    s.freshnessTick n = s ∨
    ∃ i r, s.record i = some r ∧ r.counting = true ∧
      (s.freshnessTick n = s.expire i r ∨
        (r.remaining ≠ 1 ∧
          s.freshnessTick n = s.setRecord i (some { r with remaining := r.remaining - 1 }))) := by
  unfold State.freshnessTick
  split
  · split
    · exact Or.inl rfl
    · rename_i h _ r hr
      split
      · rename_i hc
        refine Or.inr ⟨_, r, hr, hc, ?_⟩
        split
        · exact Or.inl rfl
        · rename_i h1
          exact Or.inr ⟨h1, rfl⟩
      · exact Or.inl rfl
  · exact Or.inl rfl

/-- What a freshness expiry can do: nothing, or the expiry. -/
theorem State.freshnessExpiry_cases (s : State) (n : Nat) :
    s.freshnessExpiry n = s ∨
    ∃ i r, s.record i = some r ∧ r.expiring = true ∧ s.freshnessExpiry n = s.expire i r := by
  unfold State.freshnessExpiry
  split
  · split
    · exact Or.inl rfl
    · rename_i h _ r hr
      split
      · rename_i hc
        exact Or.inr ⟨_, r, hr, hc, rfl⟩
      · exact Or.inl rfl
  · exact Or.inl rfl

end Sys2Proof.Machine
end

