-- ==== Sys2Proof/Laws/Effects.lean ====
section
/-! SUPPORT. Every case of the effect of each command: the state is left as it was, or changed in one of the ways listed, with the conditions under which it is. -/

namespace Sys2Proof.Machine

/-! ## The checks the commands share -/

/-- The slot check: the state as it was, or the effect on the slot named. -/
theorem withSlot_cases (p : List Byte) (s : State) (effect : Slot → Reply) :
    (withSlot p s effect).1 = s ∨ ∃ i, slotOf (byteAt p 0) = some i ∧ withSlot p s effect = effect i := by
  unfold withSlot
  split
  · exact Or.inl rfl
  · rename_i i h
    exact Or.inr ⟨i, h, rfl⟩

/-- The state check that refuses FREE and RETIRING. -/
theorem withUsable_cases (s : State) (i : Slot) (effect : Record → Reply) :
    (withUsable s i effect).1 = s ∨
    ∃ r, s.record i = some r ∧ r.state ≠ .retiring ∧ withUsable s i effect = effect r := by
  unfold withUsable
  split
  · exact Or.inl rfl
  · rename_i r hr
    split
    · exact Or.inl rfl
    · rename_i hs
      exact Or.inr ⟨r, hr, hs, rfl⟩

/-- The state check that refuses FREE only. -/
theorem withRecord_cases (s : State) (i : Slot) (effect : Record → Reply) :
    (withRecord s i effect).1 = s ∨ ∃ r, s.record i = some r ∧ withRecord s i effect = effect r := by
  unfold withRecord
  split
  · exact Or.inl rfl
  · rename_i r hr
    exact Or.inr ⟨r, hr, rfl⟩

/-- The kind check of the Register Store's commands. -/
theorem withBank_cases (s : State) (r : Record) (effect : Bank → Reply) :
    (withBank s r effect).1 = s ∨ ∃ b, r.content = .bank b ∧ withBank s r effect = effect b := by
  unfold withBank
  split
  · rename_i b hb
    exact Or.inr ⟨b, hb, rfl⟩
  · exact Or.inl rfl

/-- The kind check of the Mailbox Unit's commands. -/
theorem withMailbox_cases (s : State) (r : Record) (effect : Mailbox → Reply) :
    (withMailbox s r effect).1 = s ∨ ∃ m, r.content = .mailbox m ∧ withMailbox s r effect = effect m := by
  unfold withMailbox
  split
  · exact Or.inl rfl
  · rename_i m hm
    exact Or.inr ⟨m, hm, rfl⟩

/-! ## Device and link commands -/

theorem statusEffect_cases (p : List Byte) (s : State) :
    (statusEffect p s).1 = s ∨ (statusEffect p s).1 = { s with counters := Counters.reset } := by
  unfold statusEffect
  split
  · exact Or.inl rfl
  · split
    · exact Or.inr rfl
    · exact Or.inl rfl

theorem creditEffect_cases (p : List Byte) (s : State) :
    (creditEffect p s).1 = s ∨
    ∃ n, n ≤ 16 ∧ (creditEffect p s).1 = { s with notices := { s.notices with credit := n } } := by
  unfold creditEffect
  simp only
  split
  · exact Or.inl rfl
  · exact Or.inr ⟨_, Nat.min_le_left _ _, rfl⟩

theorem detachEffect_cases (p : List Byte) (s : State) :
    (detachEffect p s).1 = s ∨
    (s.engine.phase = .hold ∧ (detachEffect p s).1 = s.endTransaction .detach) ∨
    (phasePins s.engine.phase = false ∧ (detachEffect p s).1 = { s with engine := s.engine.detachNow }) ∨
    (phaseSupervised s.engine.phase = true ∧
      (detachEffect p s).1 = { s with engine := { s.engine with detaching := true } }) := by
  unfold detachEffect
  cases h : s.engine.phase <;> simp only [phasePins, phaseSupervised, State.reply]
  case detached => exact Or.inl trivial
  case hold => exact Or.inr (Or.inl ⟨trivial, trivial⟩)
  case address => exact Or.inr (Or.inr (Or.inl ⟨trivial, trivial⟩))
  case listen | ignore | recover =>
    split
    · exact Or.inl rfl
    · exact Or.inr (Or.inr (Or.inl ⟨trivial, rfl⟩))
  all_goals exact Or.inr (Or.inr (Or.inr ⟨trivial, trivial⟩))

theorem holdLimitEffect_cases (p : List Byte) (s : State) :
    (holdLimitEffect p s).1 = s ∨
    (byteAt p 0 ≠ 0 ∧ (holdLimitEffect p s).1 = { s with holdLimit := byteAt p 0 }) := by
  unfold holdLimitEffect
  split
  · exact Or.inl rfl
  · rename_i h
    exact Or.inr ⟨h, rfl⟩

theorem stallLimitEffect_cases (p : List Byte) (s : State) :
    (stallLimitEffect p s).1 = s ∨
    (byteAt p 0 ≠ 0 ∧ (byteAt p 0).toNat ≤ 50 ∧
      (stallLimitEffect p s).1 = { s with stallLimit := byteAt p 0 }) := by
  unfold stallLimitEffect
  split
  · exact Or.inl rfl
  · rename_i h
    exact Or.inr ⟨fun h0 => h (Or.inl h0), Nat.le_of_not_lt fun h1 => h (Or.inr h1), rfl⟩

/-! ## The Endpoint Table -/

theorem installEffect_cases (p : List Byte) (s : State) :
    (installEffect p s).1 = s ∨
    ∃ i, installCheck s (installFields p) = .ok i ∧ (installEffect p s).1 = s.installAt i (installFields p) := by
  unfold installEffect
  split
  · exact Or.inl rfl
  · rename_i i h
    exact Or.inr ⟨i, h, rfl⟩

/-- INSTALL's checks passed: nothing bad, no overlap, the chosen slot FREE, and blocks enough for a bank. -/
theorem installCheck_ok {s : State} {q : InstallFields} {i : Slot} (h : installCheck s q = .ok i) :
    installBadParam q = false ∧ wholeSetReserved (sevenBit q.address) (sevenBit q.mask) = false ∧
    overlaps s.table (sevenBit q.address) (sevenBit q.mask) = false ∧ s.record i = none ∧
    (q.kindCode = 0 → blocksNeeded q.size.toNat ≤ s.freeBlocks.length) := by
  unfold installCheck at h
  split at h
  · cases h
  · split at h
    · cases h
    · rename_i hb
      split at h
      · cases h
      · rename_i hw
        split at h
        · cases h
        · rename_i ho
          split at h
          · cases h
          · rename_i j hj
            split at h
            · cases h
            · rename_i hn
              cases h
              refine ⟨by simpa using hb, by simpa using hw, by simpa using ho, ?_, fun hk => ?_⟩
              · unfold chooseSlot at hj
                split at hj
                · split at hj
                  · rename_i hr
                    cases hj
                    simpa using hr
                  · cases hj
                · have := List.find?_some hj
                  simpa using this
              · exact Nat.le_of_not_lt fun hl => hn ⟨hk, hl⟩

theorem activateEffect_cases (p : List Byte) (s : State) :
    (activateEffect p s).1 = s ∨
    ∃ i r, s.record i = some r ∧ r.state = .staged ∧
      (activateEffect p s).1 = s.setRecord i (some { r.reload with state := .live }) := by
  unfold activateEffect
  rcases withSlot_cases p s _ with h | ⟨i, -, h⟩
  · exact Or.inl h
  rw [h]
  rcases withRecord_cases s i _ with h | ⟨r, hr, h⟩
  · exact Or.inl h
  rw [h]
  split
  · rename_i hs
    exact Or.inr ⟨i, r, hr, hs, rfl⟩
  · exact Or.inl rfl

theorem quiesceEffect_cases (p : List Byte) (s : State) :
    (quiesceEffect p s).1 = s ∨
    ∃ i r, s.record i = some r ∧ r.state = .live ∧
      (quiesceEffect p s).1 = s.setRecord i (some { r with state := .quiesced }) := by
  unfold quiesceEffect
  rcases withSlot_cases p s _ with h | ⟨i, -, h⟩
  · exact Or.inl h
  rw [h]
  rcases withRecord_cases s i _ with h | ⟨r, hr, h⟩
  · exact Or.inl h
  rw [h]
  split
  · rename_i hs
    exact Or.inr ⟨i, r, hr, hs, rfl⟩
  · exact Or.inl rfl

theorem resumeEffect_cases (p : List Byte) (s : State) :
    (resumeEffect p s).1 = s ∨
    ∃ i r, s.record i = some r ∧ r.state = .quiesced ∧
      (resumeEffect p s).1 = s.setRecord i (some { r.reload with state := .live }) := by
  unfold resumeEffect
  rcases withSlot_cases p s _ with h | ⟨i, -, h⟩
  · exact Or.inl h
  rw [h]
  rcases withRecord_cases s i _ with h | ⟨r, hr, h⟩
  · exact Or.inl h
  rw [h]
  split
  · rename_i hs
    exact Or.inr ⟨i, r, hr, hs, rfl⟩
  · exact Or.inl rfl

theorem retireEffect_cases (p : List Byte) (s : State) :
    (retireEffect p s).1 = s ∨
    ∃ i r, s.record i = some r ∧ r.state ≠ .retiring ∧
      ((s.pinned i = false ∧ (retireEffect p s).1 = s.freeRecord i) ∨
      (s.pinned i = true ∧ s.engine.phase = .hold ∧
        (retireEffect p s).1 = (s.endTransaction .retire).freeRecord i) ∨
      (s.pinned i = true ∧ s.engine.phase ≠ .hold ∧
        (retireEffect p s).1 = s.setRecord i (some { r with state := .retiring }))) := by
  unfold retireEffect
  rcases withSlot_cases p s _ with h | ⟨i, -, h⟩
  · exact Or.inl h
  rw [h]
  rcases withUsable_cases s i _ with h | ⟨r, hr, hs, h⟩
  · exact Or.inl h
  rw [h]
  refine Or.inr ⟨i, r, hr, hs, ?_⟩
  cases hp : s.pinned i with
  | false => exact Or.inl ⟨rfl, rfl⟩
  | true =>
    by_cases hh : s.engine.phase = .hold
    · exact Or.inr (Or.inl ⟨rfl, hh, by simp [hh, State.reply]⟩)
    · exact Or.inr (Or.inr ⟨rfl, hh, by simp [hh, State.reply]⟩)

theorem touchEffect_cases (p : List Byte) (s : State) :
    (touchEffect p s).1 = s ∨
    ∃ i r, s.record i = some r ∧ r.state ≠ .retiring ∧ (touchEffect p s).1 = s.refresh i := by
  unfold touchEffect
  rcases withSlot_cases p s _ with h | ⟨i, -, h⟩
  · exact Or.inl h
  rw [h]
  rcases withUsable_cases s i _ with h | ⟨r, hr, hs, h⟩
  · exact Or.inl h
  rw [h]
  exact Or.inr ⟨i, r, hr, hs, rfl⟩

theorem queryEffect_fst (p : List Byte) (s : State) : (queryEffect p s).1 = s := by
  unfold queryEffect
  rcases withSlot_cases p s _ with h | ⟨i, -, h⟩
  · exact h
  · rw [h]
    rfl

theorem lookupEffect_fst (p : List Byte) (s : State) : (lookupEffect p s).1 = s := by
  unfold lookupEffect
  split <;> rfl

/-! ## The Register Store -/

/-- A LOAD, or a FILL treated as one: BUSY, held, or written at once. -/
theorem State.loadBank_cases (s : State) (i : Slot) (b : Bank) (offset : Nat) (data : List Byte)
    (now later : Status) :
    (s.loadBank i b offset data now later).1 = s ∨
    (s.pinned i = true ∧ s.updateHold.length < 4 ∧ (s.loadBank i b offset data now later).1 =
      ({ s with updateHold := s.updateHold ++ [{ slot := i, offset := offset, data := data }] } : State).refresh i) ∨
    (s.pinned i = false ∧
      (s.loadBank i b offset data now later).1 = (s.writeWindow b offset data).refresh i) := by
  unfold State.loadBank
  cases hp : s.pinned i with
  | false => exact Or.inr (Or.inr ⟨rfl, rfl⟩)
  | true =>
    by_cases hl : s.updateHold.length < Config.updateHoldEntries
    · exact Or.inr (Or.inl ⟨rfl, hl, by simp [hl, State.reply]⟩)
    · exact Or.inl (by simp [hl, State.reply])

theorem loadEffect_cases (p : List Byte) (s : State) :
    (loadEffect p s).1 = s ∨
    ∃ i r b offset data, s.record i = some r ∧ r.state ≠ .retiring ∧ r.content = .bank b ∧
      data = p.drop 2 ∧ offset + data.length ≤ b.size ∧
      ((s.pinned i = true ∧ s.updateHold.length < 4 ∧ (loadEffect p s).1 =
        ({ s with updateHold := s.updateHold ++ [{ slot := i, offset := offset, data := data }] } : State).refresh i) ∨
      (s.pinned i = false ∧ (loadEffect p s).1 = (s.writeWindow b offset data).refresh i)) := by
  unfold loadEffect
  rcases withSlot_cases p s _ with h | ⟨i, -, h⟩
  · exact Or.inl h
  rw [h]
  rcases withUsable_cases s i _ with h | ⟨r, hr, hs, h⟩
  · exact Or.inl h
  rw [h]
  rcases withBank_cases s r _ with h | ⟨b, hb, h⟩
  · exact Or.inl h
  rw [h]
  split
  · exact Or.inl rfl
  · rename_i hl
    rcases s.loadBank_cases i b (byteAt p 1).toNat (p.drop 2) .ok .held with h | h
    · exact Or.inl h
    · exact Or.inr ⟨i, r, b, _, _, hr, hs, hb, rfl, Nat.le_of_not_lt hl, h⟩

theorem readEffect_fst (p : List Byte) (s : State) : (readEffect p s).1 = s := by
  unfold readEffect
  rcases withSlot_cases p s _ with h | ⟨i, -, h⟩
  · exact h
  rw [h]
  split
  · rfl
  rcases withRecord_cases s i _ with h | ⟨r, -, h⟩
  · exact h
  rw [h]
  rcases withBank_cases s r _ with h | ⟨b, -, h⟩
  · exact h
  rw [h]
  split <;> rfl

/-- The open FETCH hold on a slot. -/
theorem State.fetchHold_eq_some {s : State} {i : Slot} {c : Context} (h : s.fetchHold i = some c) :
    s.engine.ctx = some c ∧ c.slot = i ∧ s.engine.phase = .hold ∧ c.holdReason = some .fetch := by
  unfold State.fetchHold at h
  split at h
  · rename_i hc
    split at h
    · rename_i hh
      cases h
      exact ⟨hc, hh⟩
    · cases h
  · cases h

theorem fillEffect_cases (p : List Byte) (s : State) :
    (fillEffect p s).1 = s ∨
    ∃ i r b offset data, s.record i = some r ∧ r.state ≠ .retiring ∧ r.content = .bank b ∧
      data = p.drop 2 ∧ offset + data.length ≤ b.size ∧
      ((s.pinned i = true ∧ s.updateHold.length < 4 ∧ (fillEffect p s).1 =
        ({ s with updateHold := s.updateHold ++ [{ slot := i, offset := offset, data := data }] } : State).refresh i) ∨
      (s.pinned i = false ∧ (fillEffect p s).1 = (s.writeWindow b offset data).refresh i) ∨
      ∃ c, s.engine.ctx = some c ∧ c.slot = i ∧ s.engine.phase = .hold ∧ c.holdReason = some .fetch ∧
        slotOf (byteAt p 0) = some i ∧
        (fillEffect p s).1 = ((s.writeWindow b offset data).refresh i).endHoldWithAck c .read) := by
  unfold fillEffect
  rcases withSlot_cases p s _ with h | ⟨i, hi, h⟩
  · exact Or.inl h
  rw [h]
  rcases withUsable_cases s i _ with h | ⟨r, hr, hs, h⟩
  · exact Or.inl h
  rw [h]
  rcases withBank_cases s r _ with h | ⟨b, hb, h⟩
  · exact Or.inl h
  rw [h]
  split
  · exact Or.inl rfl
  · rename_i hl
    split
    · rename_i c hc
      obtain ⟨h1, h2, h3, h4⟩ := State.fetchHold_eq_some hc
      exact Or.inr ⟨i, r, b, _, _, hr, hs, hb, rfl, Nat.le_of_not_lt hl, Or.inr (Or.inr ⟨c, h1, h2, h3, h4, hi, rfl⟩)⟩
    · rcases s.loadBank_cases i b (byteAt p 1).toNat (p.drop 2) .late .late with h | h | h
      · exact Or.inl h
      · exact Or.inr ⟨i, r, b, _, _, hr, hs, hb, rfl, Nat.le_of_not_lt hl, Or.inl h⟩
      · exact Or.inr ⟨i, r, b, _, _, hr, hs, hb, rfl, Nat.le_of_not_lt hl, Or.inr (Or.inl h)⟩

/-! ## Mailboxes -/

theorem postEffect_cases (p : List Byte) (s : State) :
    (postEffect p s).1 = s ∨
    ∃ i r m k rest msg, s.record i = some r ∧ r.state ≠ .retiring ∧ r.content = .mailbox m ∧
      m.queue.length < m.depth ∧ s.freeBuffers = k :: rest ∧ 1 ≤ msg.length ∧ msg.length ≤ 32 ∧
      (postEffect p s).1 = s.postMessage i r m k rest msg := by
  unfold postEffect
  rcases withSlot_cases p s _ with h | ⟨i, -, h⟩
  · exact Or.inl h
  rw [h]
  split
  · exact Or.inl rfl
  rename_i hc
  obtain ⟨h0, h32, hlen⟩ := not_or.1 hc |>.imp_right not_or.1
  have hpos : 1 ≤ (byteAt p 1).toNat :=
    Nat.one_le_iff_ne_zero.2 fun h => h0 (BitVec.eq_of_toNat_eq h)
  have hle : (byteAt p 1).toNat ≤ 32 := Nat.le_of_not_lt h32
  rw [Decidable.not_not.1 hlen] at hpos hle
  rcases withUsable_cases s i _ with h | ⟨r, hr, hs, h⟩
  · exact Or.inl h
  rw [h]
  rcases withMailbox_cases s r _ with h | ⟨m, hm, h⟩
  · exact Or.inl h
  rw [h]
  split
  · exact Or.inl rfl
  · rename_i hd
    split
    · exact Or.inl rfl
    · rename_i k rest hf
      exact Or.inr ⟨i, r, m, k, rest, _, hr, hs, hm, Nat.lt_of_not_le hd, hf, hpos, hle, rfl⟩

/-- The served message of the open read of a slot. -/
theorem State.servedMessage_eq_some {s : State} {i : Slot} {k : BufferNo} (h : s.servedMessage i = some k) :
    ∃ c, s.engine.ctx = some c ∧ c.slot = i ∧ c.direction = .read ∧ c.served = .message k := by
  unfold State.servedMessage at h
  split at h
  · rename_i c hc
    split at h
    · rename_i hd
      split at h
      · rename_i k' hk
        cases h
        exact ⟨c, hc, hd.1, hd.2, hk⟩
      · cases h
      · cases h
    · cases h
  · cases h

theorem flushEffect_cases (p : List Byte) (s : State) :
    (flushEffect p s).1 = s ∨
    ∃ i r m, s.record i = some r ∧ r.content = .mailbox m ∧
      ((s.servedMessage i = none ∧ (flushEffect p s).1 = s.flushAll i r m) ∨
      ∃ k, s.servedMessage i = some k ∧ (flushEffect p s).1 = s.flushAround i r m k) := by
  unfold flushEffect
  rcases withSlot_cases p s _ with h | ⟨i, -, h⟩
  · exact Or.inl h
  rw [h]
  rcases withRecord_cases s i _ with h | ⟨r, hr, h⟩
  · exact Or.inl h
  rw [h]
  rcases withMailbox_cases s r _ with h | ⟨m, hm, h⟩
  · exact Or.inl h
  rw [h]
  split
  · rename_i hn
    exact Or.inr ⟨i, r, m, hr, hm, Or.inl ⟨hn, rfl⟩⟩
  · rename_i k hk
    exact Or.inr ⟨i, r, m, hr, hm, Or.inr ⟨k, hk, rfl⟩⟩

end Sys2Proof.Machine
end

