-- ==== Sys2Proof/Laws/Resolver.lean ====
section
/-! SUPPORT. The Address Resolver: the resolving endpoint is a LIVE or QUIESCED record that contains the address, and none when the address is reserved or no record is a candidate. -/

namespace Sys2Proof.Machine

/-- What a candidate is (R34). -/
theorem isCandidate_iff {a : Address} {r : Record} :
    isCandidate a r = true ↔
      (r.state = .live ∨ r.state = .quiesced) ∧ inAddressSet r.address r.mask a = true := by
  simp [isCandidate]

/-- What a reserved address is (R29). -/
theorem reservedAddress_iff {a : Address} : reservedAddress a = true ↔ a.toNat ≤ 0x07 ∨ 0x78 ≤ a.toNat := by
  simp [reservedAddress]

/-- The best candidate is one of the slots listed, its record is that slot's, and it is a candidate (R34, R35). -/
theorem bestCandidate_eq_some {table : Vector (Option Record) 48} {a : Address} {slots : List Slot} {i : Slot}
    {r : Record} (h : bestCandidate table a slots = some (i, r)) :
    i ∈ slots ∧ table[i.val]'i.isLt = some r ∧ isCandidate a r = true := by
  induction slots generalizing i r with
  | nil => cases h
  | cons j rest ih =>
    have tail {k : Slot} {q : Record} (hk : bestCandidate table a rest = some (k, q)) :
        k ∈ j :: rest ∧ table[k.val]'k.isLt = some q ∧ isCandidate a q = true :=
      ⟨List.mem_cons_of_mem j (ih hk).1, (ih hk).2⟩
    unfold bestCandidate at h
    split at h
    · exact tail h
    · rename_i q hq
      split at h
      · rename_i hc
        split at h
        · cases h
          exact ⟨List.mem_cons_self, hq, hc⟩
        · rename_i hb
          split at h
          · cases h
            exact ⟨List.mem_cons_self, hq, hc⟩
          · cases h
            exact tail hb
      · exact tail h

/-- No candidate is found exactly when none of the slots listed holds one (R34). -/
theorem bestCandidate_eq_none {table : Vector (Option Record) 48} {a : Address} {slots : List Slot} :
    bestCandidate table a slots = none ↔
      ∀ i ∈ slots, ∀ r, table[i.val]'i.isLt = some r → isCandidate a r = false := by
  induction slots with
  | nil => simp [bestCandidate]
  | cons j rest ih =>
    unfold bestCandidate
    split
    · rename_i hj
      simp [ih, hj]
    · rename_i q hq
      split
      · rename_i hc
        constructor
        · intro h
          split at h
          · cases h
          · split at h <;> cases h
        · intro h
          rw [h j List.mem_cons_self q hq] at hc
          cases hc
      · rename_i hc
        simp [ih, hq, hc]

/-- A resolving endpoint is a record of the table, LIVE or QUIESCED, that contains the address, which is not
reserved (R29, R34, R35). -/
theorem resolve_eq_some {s : State} {a : Address} {i : Slot} {r : Record} (h : resolve s.table a = some (i, r)) :
    reservedAddress a = false ∧ s.record i = some r ∧ (r.state = .live ∨ r.state = .quiesced) ∧
      inAddressSet r.address r.mask a = true := by
  unfold resolve at h
  split at h
  · cases h
  · rename_i hr
    obtain ⟨-, h1, h2⟩ := bestCandidate_eq_some h
    exact ⟨by simpa using hr, h1, isCandidate_iff.1 h2⟩

end Sys2Proof.Machine
end

