-- ==== Sys2Proof/WellFormed.lean ====
section
/-! DEFINITION. Which terms of `Instr` name an event the part can have: the slot of a freshness event is 0 to 47 (R1). Every other operand is of a type that holds only values the spec admits. -/

namespace Sys2Proof

/-- The operands of `i` are in the ranges the spec gives them. -/
def Instr.wellFormed : Instr → Bool
  | .freshnessTick slot => slot < 48
  | .freshnessExpiry slot => slot < 48
  | .identify | .status | .reset | .credit | .attach | .detach | .holdLimit | .stallLimit => true
  | .install | .activate | .quiesce | .resume | .retire | .query | .lookup | .touch => true
  | .load | .read | .fill | .post | .flush | .unknownCommand | .duplicate => true
  | .frameReceived _ | .framingError | .gapTimeout | .linkReset | .breakEnd => true
  | .frameStart | .frameSent | .hardwareReset | .hardwareResetEnd _ _ _ => true
  | .startCondition | .stopCondition | .addressByte _ | .pointerByte _ => true
  | .bankWriteByte _ | .mailboxWriteByte _ | .readByteDrive | .readByteAcknowledge _ => true
  | .holdExpiry | .abandonment | .characterReceived _ | .sclEdge _ => true

end Sys2Proof
end

