-- ==== Sys2Proof/Tests/Slice0.lean ====
section
/-! SUPPORT. Tests of single steps against the spec's own worked values, the smoke test of the well-formedness check, and for every statement with hypotheses a state that meets them. -/

namespace Sys2Proof.Tests

set_option Elab.async false

open Sys2Proof.Machine

/-! ## Builders -/

/-- The state after one command or event. -/
def after (i : Instr) (s : State) : State :=
  match exec i s with
  | .next t => t
  | .fault _ => s
  | .refused _ => s

theorem exec_after (i : Instr) (s : State) : exec i s = .next (after i s) := by
  unfold after
  rw [exec_eq]

/-- A command frame with SEQ 0x30. -/
def frame (code : Byte) (payload : List Byte) : Frame := { seq := 0x30, code := code, payload := payload }

/-- The state with one frame in the inbox. -/
def given (s : State) (code : Byte) (payload : List Byte) : State :=
  { s with link := { s.link with inbox := [frame code payload] } }

/-- The payloads of the queued responses. -/
def replies (s : State) : List (List Byte) := s.link.responses.map Frame.payload

/-- A bank of 40 bytes in blocks 3, 7 and 8 (the block list of R46). -/
def bank40 (policy : WritePolicy) (fetch : Bool) (pointer : Nat) : Bank where
  size := 40
  fill := 0
  policy := policy
  fetchOnRead := fetch
  blocks := [3, 7, 8]
  pointer := pointer

/-- A mailbox of depth 2. -/
def box (inbound : Bool) (queue : List BufferNo) : Mailbox where
  depth := 2
  acceptInbound := inbound
  queue := queue
  headFlushed := false

/-- A record at 0x50, mask 0, with a tag and an interval of 20. -/
def record (state : EndpointState) (content : Content) : Record where
  state := state
  address := 0x50
  mask := 0
  tag := some 0x0A05
  interval := 20
  remaining := 5
  stale := false
  stalePolicy := .answer
  content := content

/-- The reset state with one record, in slot 0. -/
def having (r : Record) : State := State.reset.setRecord 0 (some r)

/-- A LIVE bank in slot 0. -/
def liveBank (policy : WritePolicy) (fetch : Bool) (pointer : Nat) : State :=
  having (record .live (.bank (bank40 policy fetch pointer)))

/-- A LIVE mailbox in slot 0. -/
def liveBox (inbound : Bool) (queue : List BufferNo) : State := having (record .live (.mailbox (box inbound queue)))

/-- The context of a transaction on slot 0. -/
def context (d : Direction) : Context where
  slot := 0
  direction := d
  holdReason := none
  reserved := false
  startPointer := 0
  refusing := false
  headServed := 0
  collected := []
  served := .unfixed

/-- The state with the engine in a phase without a pin. -/
def idle (s : State) (p : Phase) : State := { s with engine := { s.engine with phase := p } }

/-- The state with a transaction open, its timer running and, in a hold, SCL driven low. -/
def opened (s : State) (p : Phase) (c : Context) : State :=
  { s with engine := {
      phase := p
      detaching := false
      ctx := some c
      holdTimer := if p = .hold then some 10 else none
      stallTimer := if p = .hold then none else some 8
      stretching := p == .hold
      sda := .released } }

/-- The state with the detaching mark set. -/
def marked (s : State) : State := { s with engine := { s.engine with detaching := true } }

/-- An event notice. -/
def staleNotice : Notice := { slot := 3, tag := none, body := .stale }

/-- A data notice. -/
def writeNotice : Notice := { slot := 3, tag := none, body := .write 0 [1] }

/-- The state with these completed notices and this credit. -/
def noticed (s : State) (ns : List Notice) (credit : Nat) : State :=
  { s with notices := { s.notices with completed := ns, credit := credit } }

/-- One entry of the Update Hold for slot 0. -/
def entry : HeldLoad := { slot := 0, offset := 0, data := [0x5A] }

/-- The INSTALL payload of 11.7, with the slot byte, flags, address, mask, size and kind parameters given. -/
def installBytes (slot flags address mask size parameters : Byte) : List Byte :=
  [slot, flags, address, mask, 0, 0, 20, size, 0, 0, parameters]

/-! ## Well-formedness, and words -/

theorem test_wellFormed_tick_47 : (Instr.freshnessTick 47).wellFormed = true := by decide

theorem test_wellFormed_refuses_tick_48 : (Instr.freshnessTick 48).wellFormed = false := by decide

theorem test_wellFormed_refuses_expiry_48 : (Instr.freshnessExpiry 48).wellFormed = false := by decide

theorem test_no_word_spells_a_command :
    decodeTableWord 8 0x01 = none ∧ State.reset.withFetchWord 8 0x01 = State.reset := by decide +kernel

/-! ## Frames (R186, 11.7) -/

/-- R186's own example. -/
theorem test_identify_on_the_wire :
    frameWire { seq := 0x01, code := 0x01, payload := [] } = [0xB7, 0x02, 0x01, 0x01, 0xC4] := by decide +kernel

/-- R168 on the SYNC byte 0xB7, 10110111 in binary: start low, then 1 1 1 0 1 1 0 1, then stop high. -/
theorem test_sync_on_the_line :
    charBits 0xB7 = [false, true, true, true, false, true, true, false, true, true] ∧
    charOfBits [false, true, true, true, false, true, true, false, true, true] = some 0xB7 ∧
    charOfBits [false, true, true, true, false, true, true, false, true, false] = none := by decide +kernel

theorem test_install_fields : installFields (installBytes 0xFF 0x24 0x50 0 40 0x01) =
    { slot := 0xFF, kindCode := 0, activate := true, tagPresent := false, fetchOnRead := false, refuse := true
      acceptInbound := false, undefinedFlag := false, address := 0x50, mask := 0, tag := 0, interval := 20
      size := 40, fill := 0, policyCode := 1, depth := 0 } := by decide +kernel

/-- R191: header of flags, slot and tag, then the start pointer and the data of a WRITE notice. -/
theorem test_write_notice_frame :
    noticeFrame 7 true { slot := 12, tag := some 0x0C12, body := .write 2 [0xB1] } =
      { seq := 7, code := 0x40, payload := [0x03, 12, 0x12, 0x0C, 2, 0xB1] } := by decide +kernel

/-! ## Address sets (R3, R30, R31) -/

theorem test_specificity : specificity 0 = 7 ∧ specificity 0x03 = 5 ∧ specificity 0x7F = 0 := by decide +kernel

theorem test_stored_address : storedAddress 0x53 0x03 = 0x50 := by decide +kernel

/-! ## Device and link commands -/

theorem test_identify :
    (after .identify (given State.reset 0x01 [])).link.responses =
      [{ seq := 0x30, code := 0x81, payload := [0x00, 0x48, 0x07, 0x10, 48, 128, 64, 32] }] := by decide +kernel

theorem test_status : replies (after .status (given State.reset 0x02 [0])) =
    [[0x00, 0, 0, 0, 0, 0, 0, 0, 0, 0, 0, 0, 0, 0, 0, 48, 128, 64, 0, 0, 0, 0xFF, 0, 10, 8]] := by decide +kernel

theorem test_status_undefined_flag : replies (after .status (given State.reset 0x02 [0x02])) = [[0x12]] := by
  decide +kernel

theorem test_reset : (after .reset (given (liveBank .apply false 0) 0x03 [])).link.hello = some .soft ∧
    (after .reset (given (liveBank .apply false 0) 0x03 [])).record 0 = none := by decide +kernel

theorem test_credit_is_cut_at_16 :
    replies (after .credit (given (noticed State.reset [] 10) 0x04 [16])) = [[0x00, 16]] := by decide +kernel

theorem test_credit_17 : replies (after .credit (given State.reset 0x04 [17])) = [[0x12]] := by decide +kernel

theorem test_attach : (after .attach (given State.reset 0x05 [])).engine.phase = .listen := by decide +kernel

theorem test_detach_deferred :
    replies (after .detach (given (opened (liveBank .apply false 0) .write (context .write)) 0x06 [])) =
      [[0x02]] := by decide +kernel

theorem test_holdLimit : (after .holdLimit (given State.reset 0x07 [25])).holdLimit = 25 := by decide +kernel

theorem test_stallLimit_51 : replies (after .stallLimit (given State.reset 0x08 [51])) = [[0x12]] := by
  decide +kernel

/-! ## The Endpoint Table -/

/-- 11.7 with slot 0 free: the answer names the slot, and the window takes the fill byte. -/
theorem test_install : replies (after .install (given State.reset 0x10 (installBytes 0xFF 0x24 0x50 0 40 0x01))) =
    [[0x00, 0]] := by decide +kernel

/-- The block list of R46: with 3, 7, 8 and 20 to 127 free, size 40 takes 3, 7 and 8. -/
theorem test_install_blocks :
    (after .install (given { State.reset with freeBlocks := [3, 7, 8, 20, 21, 22] } 0x10
      (installBytes 9 0x24 0x53 0x03 40 0x01))).blocksOf 9 = [3, 7, 8] := by decide +kernel

theorem test_activate_staged :
    ((after .activate (given (having (record .staged (.mailbox (box true [])))) 0x11 [0])).record 0).map
      (fun r => (r.state, r.remaining)) = some (.live, 20) := by decide +kernel

theorem test_quiesce_keeps_the_count :
    ((after .quiesce (given (liveBank .deny false 0) 0x12 [0])).record 0).map
      (fun r => (r.state, r.remaining)) = some (.quiesced, 5) := by decide +kernel

theorem test_resume_live : replies (after .resume (given (liveBank .deny false 0) 0x13 [0])) = [[0x14]] := by
  decide +kernel

/-- The retirement of 1.8: deferred while the bank is read. -/
theorem test_retire_pinned :
    replies (after .retire (given (opened (liveBank .apply false 32) .read (context .read)) 0x14 [0])) =
      [[0x02]] := by decide +kernel

theorem test_retire_returns_the_blocks :
    (after .retire (given { liveBank .apply false 0 with freeBlocks := [5, 9] } 0x14 [0])).freeBlocks =
      [3, 5, 7, 8, 9] := by decide +kernel

/-- The QUERY response of 11.7, by offsets. -/
theorem test_query :
    replies (after .query (given (having { record .live (.bank (bank40 .apply false 0)) with
      tag := none, remaining := 20, stalePolicy := .refuse }) 0x15 [0])) =
      [[0x00, 2, 0, 0x50, 0, 7, 0, 0, 0x04, 20, 20, 40, 0, 0, 1, 0, 0, 3, 3]] := by decide +kernel

theorem test_lookup_quiesced :
    replies (after .lookup (given (having (record .quiesced (.mailbox (box true [])))) 0x16 [0x50])) =
      [[0x00, 0, 3, 0]] := by decide +kernel

theorem test_touch :
    ((after .touch (given (liveBank .apply false 0) 0x17 [0])).record 0).map Record.remaining = some 20 := by
  decide +kernel

/-! ## The Register Store -/

/-- Window byte 20 is byte 4 of block 7 (R48). -/
theorem test_load_writes_block_7 :
    memRead (after .load (given (liveBank .apply false 0) 0x20 [0, 20, 0xAA])).store (7 * 16 + 4) = 0xAA := by
  decide +kernel

theorem test_load_pinned_is_held :
    replies (after .load (given (opened (liveBank .apply false 4) .pointer (context .write)) 0x20 [0, 4, 0x20])) =
      [[0x01]] := by decide +kernel

theorem test_read : replies (after .read (given (liveBank .apply false 0) 0x21 [0, 38, 2])) = [[0x00, 0, 0]] := by
  decide +kernel

theorem test_read_out_of_range :
    replies (after .read (given (liveBank .apply false 0) 0x21 [0, 39, 2])) = [[0x19]] := by decide +kernel

/-- 6.7: the FILL that answers the hold ends it with ACK in READ. -/
theorem test_fill_answers :
    (after .fill (given (opened (liveBank .deny true 0) .hold { context .read with holdReason := some .fetch })
      0x22 [0, 0, 0x77])).engine =
      { phase := .read, detaching := false, ctx := some (context .read), holdTimer := none
        stallTimer := some 8, stretching := false, sda := .ack .driven } := by decide +kernel

theorem test_fill_late : replies (after .fill (given (liveBank .deny true 0) 0x22 [0, 0, 0x77])) = [[0x03]] := by
  decide +kernel

/-! ## Mailboxes -/

/-- 5.10, event 1: the lowest-numbered free buffer takes the message. -/
theorem test_post :
    (after .post (given { liveBox true [] with freeBuffers := [6, 7, 8] } 0x30 [0, 2, 0x31, 0x32])).queueOf 0 =
      [6] := by decide +kernel

theorem test_flush : replies (after .flush (given (liveBox true [6, 7]) 0x31 [0])) = [[0x00, 2, 0]] := by
  decide +kernel

/-! ## The Command Engine's own steps -/

/-- 11.7: CODE 0x44 is answered with CODE 0xC4 and UNKNOWN_COMMAND. -/
theorem test_unknownCommand :
    (after .unknownCommand (given State.reset 0x44 [])).link.responses =
      [{ seq := 0x30, code := 0xC4, payload := [0x10] }] := by decide +kernel

/-- The state with a cached response to SEQ `seq`. -/
def cached (s : State) (seq : Byte) : State :=
  { s with link := { s.link with cache := some { seq := seq, response := { seq := seq, code := 0xA0, payload := [0x01] } } } }

/-- 10.12, event 3: the cached HELD is sent again, and nothing is held a second time. -/
theorem test_duplicate :
    (after .duplicate (cached (given (liveBank .apply false 0) 0x20 [0, 4, 0x20]) 0x30)).counters.duplicate = 1 ∧
    replies (after .duplicate (cached (given (liveBank .apply false 0) 0x20 [0, 4, 0x20]) 0x30)) = [[0x01]] := by
  decide +kernel

/-! ## Link events -/

/-- The state with the receiver at `x`. -/
def receiving (x : Receiver) : State := State.reset.setReceiver x

theorem test_character_sync : (after (.characterReceived 0xB7) State.reset).link.receiver = .frameLen := by
  decide +kernel

theorem test_character_len_61 : (after (.characterReceived 61) (receiving .frameLen)).link.receiver = .hunt := by
  decide +kernel

theorem test_frameReceived :
    (after (.frameReceived 0xC4) (receiving (.frameBody 2 [0x01, 0x01]))).link.inbox =
      [{ seq := 0x01, code := 0x01, payload := [] }] := by decide +kernel

theorem test_frameReceived_bad_crc :
    (after (.frameReceived 0xC5) (receiving (.frameBody 2 [0x01, 0x01]))).counters.crc = 1 := by decide +kernel

theorem test_framingError : (after .framingError (receiving .frameLen)).counters.framing = 1 := by decide +kernel

theorem test_gapTimeout_outside_a_frame : after .gapTimeout State.reset = State.reset := by decide +kernel

theorem test_linkReset_keeps_the_notices :
    (after .linkReset (noticed State.reset [staleNotice] 5)).notices =
      { completed := [staleNotice], reservation := false, credit := 0, overflow := false, seq := 0 } := by
  decide +kernel

theorem test_breakEnd_keeps_the_older_hello :
    (after .breakEnd (receiving .lineBreak)).link.hello = some .hard := by decide +kernel

/-- HELLO(HARD) is the first frame of all (R178, R190). -/
theorem test_frameStart :
    (after .frameStart State.reset).ltxBytes.map (List.take 6) = some [0xB7, 10, 0, 0x4F, 0, 0x48] := by
  decide +kernel

/-- LTX is high when idle, falls with the start bit of SYNC, and is high after the 13 characters of HELLO. -/
theorem test_ltx_levels :
    State.reset.ltxHigh 0 = true ∧ (after .frameStart State.reset).ltxHigh 0 = false ∧
    (after .frameStart State.reset).ltxHigh 4 = false ∧ (after .frameStart State.reset).ltxHigh 9 = true ∧
    (after .frameStart State.reset).ltxHigh 130 = true := by decide +kernel

theorem test_frameSent : (after .frameSent (after .frameStart State.reset)).link.hello = none := by decide +kernel

/-! ## Resets -/

theorem test_hardwareReset : (after .hardwareReset State.reset).readyHigh = false := by decide +kernel

theorem test_hardwareResetEnd :
    (after (.hardwareResetEnd true false true) (after .hardwareReset State.reset)).baud = .b460800 := by
  decide +kernel

/-! ## Bus events -/

theorem test_start : (after .startCondition (idle State.reset .ignore)).engine.phase = .address := by decide +kernel

theorem test_stop_detached : after .stopCondition State.reset = State.reset := by decide +kernel

/-- Row 5 of R36 (2.6, 0x52 read): FETCH is queued and the address held. -/
theorem test_address_fetch :
    (after (.addressByte 0xA1) (idle (liveBank .apply true 9) .address)).notices.completed =
      [{ slot := 0, tag := some 0x0A05, body := .fetch 9 }] ∧
    (after (.addressByte 0xA1) (idle (liveBank .apply true 9) .address)).engine.phase = .hold := by decide +kernel

/-- The state after an address byte that is held, at the rise of its eighth clock. -/
def heldAtRise : State := after (.addressByte 0xA1) (idle (liveBank .apply true 9) .address)

/-- R69: SCL is driven low after the fall of the eighth clock, not before, and then through forced edges. -/
theorem test_scl_is_held_after_the_fall :
    heldAtRise.sclHeldLow = false ∧ (after (.sclEdge .falling) heldAtRise).sclHeldLow = true ∧
    (after (.sclEdge .rising) (after (.sclEdge .falling) heldAtRise)).sclHeldLow = true := by decide +kernel

/-- R67: a FILL before the fall of the eighth clock leaves SDA alone while SCL is high. -/
theorem test_fill_before_the_fall :
    (after .fill (given heldAtRise 0x22 [0, 0, 0x77])).engine.sda = .ack .due ∧
    (after (.sclEdge .falling) (after .fill (given heldAtRise 0x22 [0, 0, 0x77]))).sdaDriven = true := by
  decide +kernel

/-- Row 9 of R36 (2.6, 0x55 write): NACK. -/
theorem test_address_no_inbound :
    (after (.addressByte 0xA0) (idle (liveBox false []) .address)).engine.phase = .ignore := by decide +kernel

/-- 4.10, transaction A: a pointer byte equal to the size is refused. -/
theorem test_pointer_at_the_size :
    (after (.pointerByte 40) (opened (liveBank .forward false 0) .pointer (context .write))).engine.sda = .nack := by
  decide +kernel

theorem test_bankWrite_apply :
    memRead (after (.bankWriteByte 0x61) (opened (liveBank .apply false 39) .write (context .write))).store
      (8 * 16 + 7) = 0x61 := by decide +kernel

theorem test_bankWrite_forward_leaves_the_store :
    (after (.bankWriteByte 0x61) (opened (liveBank .forward false 4) .write (context .write))).store = [] := by
  decide +kernel

theorem test_mailboxWrite :
    ((after (.mailboxWriteByte 0x07) (opened (liveBox true []) .write (context .write))).engine.ctx.map
      Context.collected) = some [0x07] := by decide +kernel

theorem test_read_pad :
    (after .readByteDrive (opened (liveBank .apply false 40) .read (context .read))).engine.sda =
      .data .pad 0xFF 0 := by decide +kernel

theorem test_read_empty_mailbox :
    (after .readByteDrive (opened (liveBox true []) .read (context .read))).engine.sda = .data .length 0 0 := by
  decide +kernel

/-- A NACKed byte counts, too (R81). -/
theorem test_acknowledge_nack :
    ((after (.readByteAcknowledge false) (after .readByteDrive
      (opened (liveBank .apply false 38) .read (context .read)))).record 0).map (fun r => contentPointer r.content) =
      some 39 := by decide +kernel

theorem test_sclEdge_takes_the_limit_in_force :
    (after (.sclEdge .falling) { opened (liveBank .apply false 0) .read (context .read) with
      stallLimit := 50 }).engine.stallTimer = some 50 := by decide +kernel

/-! ## Expiries -/

theorem test_holdExpiry :
    (after .holdExpiry (opened (liveBank .deny true 0) .hold
      { context .read with holdReason := some .fetch })).notices.completed =
      [{ slot := 0, tag := some 0x0A05, body := .holdExpired .fetch }] := by decide +kernel

/-- 9.6: the reservation's entry takes BUS_STALL. -/
theorem test_abandonment :
    (after .abandonment { noticed (opened (liveBank .forward false 6) .write { context .write with reserved := true })
        (List.replicate 31 staleNotice) 0 with
      notices := { completed := List.replicate 31 staleNotice, reservation := true, credit := 0, overflow := false
                   seq := 0 } }).notices =
      { completed := List.replicate 31 staleNotice ++ [{ slot := 0, tag := some 0x0A05, body := .busStall .write }]
        reservation := false, credit := 0, overflow := false, seq := 0 } := by decide +kernel

theorem test_freshnessTick :
    ((after (.freshnessTick 0) (liveBank .deny false 0)).record 0).map Record.remaining = some 4 := by
  decide +kernel

theorem test_freshnessExpiry :
    ((after (.freshnessExpiry 0) (having { record .live (.bank (bank40 .deny false 0)) with
      remaining := 1 })).record 0).map (fun r => (r.remaining, r.stale)) = some (0, true) := by decide +kernel

/-! ## Witnesses: for each statement with hypotheses, states and operands that meet them -/

/-- The frame of a command. -/
def command (c : Command) (payload : List Byte) : Frame := frame (commandCode c) payload

/-- The state with a command in the inbox. -/
def asked (s : State) (c : Command) (payload : List Byte) : State := given s (commandCode c) payload

/-- The Command Engine takes the command `c` with this payload, asked in the state `s`. -/
abbrev Asks (s : State) (c : Command) (payload : List Byte) : Prop :=
  Takes (asked s c payload) c (command c payload)

/-- The same, of slot 0. -/
abbrev AsksSlot0 (s : State) (c : Command) (payload : List Byte) : Prop :=
  Asks s c payload ∧ Names (command c payload) 0

theorem having_record (r : Record) (j : Slot) : (having r).record j = if j = 0 then some r else none := by
  rw [having, State.record_setRecord, State.record_reset]

theorem witness_StepRunsTheFrontOfTheQueue :
    ({ State.reset with pending := [.readByteDrive, .holdExpiry] } : State).pending = .readByteDrive :: [.holdExpiry] ∧
    State.reset.pending = [] := ⟨rfl, rfl⟩

theorem witness_GenericChecksRefuseTheFrame :
    (Takeable (given State.reset 0x44 []) (frame 0x44 []) ∧ Fresh (given State.reset 0x44 []) (frame 0x44 []) ∧
      isCommandCode 0x44 = false) ∧
    (Takeable (asked State.reset .load [0, 0]) (command .load [0, 0]) ∧
      Fresh (asked State.reset .load [0, 0]) (command .load [0, 0]) ∧ lengthAllowed .load 2 = false) ∧
    (Takeable (asked State.reset .install []) (command .install []) ∧
      Fresh (asked State.reset .install []) (command .install []) ∧ lengthAllowed .install 0 = false) ∧
    lengthAllowed .load 3 = true ∧ lengthAllowed .load 50 = true ∧ lengthAllowed .load 51 = false := by
  decide +kernel

theorem witness_BadSlotAndBadStateAreRefused :
    (namesSlot .touch = true ∧ Asks State.reset .touch [48] ∧ 48 ≤ (byteAt [48] 0).toNat) ∧
    (namesSlot .read = true ∧ Asks State.reset .read [47, 0, 48] ∧ Names (command .read [47, 0, 48]) 47 ∧
      countFits .read (command .read [47, 0, 48]) ∧
      stateAllows .read (((asked State.reset .read [47, 0, 48]).record 47).map Record.state) = false) ∧
    (AsksSlot0 (liveBank .deny false 0) .activate [0] ∧ countFits .activate (command .activate [0]) ∧
      stateAllows .activate (((asked (liveBank .deny false 0) .activate [0]).record 0).map Record.state) = false) := by
  unfold countFits
  decide +kernel

theorem witness_ARefusedCommandChangesNothing :
    Asks State.reset .touch [48] ∧
    exec (commandInstr .touch) (asked State.reset .touch [48]) = .next (after .touch (asked State.reset .touch [48])) ∧
    (after .touch (asked State.reset .touch [48])).link =
      answered (asked State.reset .touch [48]).link (command .touch [48]) [0x13] ∧
    0x10 ≤ ([(0x13 : Byte)].headD 0).toNat :=
  ⟨by decide +kernel, exec_after _ _, by decide +kernel, by decide⟩

theorem witness_ADuplicateIsAnsweredFromTheCache :
    Takeable (cached (asked State.reset .query [0]) 0x30) (command .query [0]) ∧
    (cached (asked State.reset .query [0]) 0x30).link.cache =
      some { seq := 0x30, response := { seq := 0x30, code := 0xA0, payload := [0x01] } } ∧
    0x30 = (command .query [0]).seq := by decide +kernel

theorem witness_ConsecutiveCommandsDifferInSeq :
    (cached (asked State.reset .identify []) 0x2F).link.cache ≠ none ∧
    exec (commandInstr .identify) (cached (asked State.reset .identify []) 0x2F) =
      .next (after .identify (cached (asked State.reset .identify []) 0x2F)) ∧
    after .identify (cached (asked State.reset .identify []) 0x2F) ≠ cached (asked State.reset .identify []) 0x2F ∧
    exec (commandInstr .reset) (cached (asked State.reset .reset []) 0x2F) =
      .next (after .reset (cached (asked State.reset .reset []) 0x2F)) ∧
    after .reset (cached (asked State.reset .reset []) 0x2F) ≠ cached (asked State.reset .reset []) 0x2F ∧
    exec .unknownCommand (cached (given State.reset 0x44 []) 0x2F) =
      .next (after .unknownCommand (cached (given State.reset 0x44 []) 0x2F)) ∧
    after .unknownCommand (cached (given State.reset 0x44 []) 0x2F) ≠ cached (given State.reset 0x44 []) 0x2F ∧
    ((after .duplicate (cached (asked State.reset .query [0]) 0x30)).link.cache =
        (cached State.reset 0x30).link.cache ∧
      (after .linkReset (cached State.reset 0x30)).link.cache = none ∧
      (after .hardwareReset (cached State.reset 0x30)).link.cache = none ∧
      (after .identify (cached (asked State.reset .identify []) 0x2F)).link.cache.map CacheEntry.seq = some 0x30) :=
  ⟨by decide +kernel, exec_after _ _, by decide +kernel, exec_after _ _, by decide +kernel, exec_after _ _,
    by decide +kernel, by decide +kernel⟩

theorem witness_IdentifyAndStatusReport :
    Asks State.reset .identify [] ∧ Asks State.reset .status [0] ∧ Asks State.reset .status [1] ∧
    Asks State.reset .status [2] := by decide +kernel

theorem witness_ResetIsASoftReset : Asks (liveBank .apply false 0) .reset [] := by decide +kernel

theorem witness_CreditAndTheLimitsAreSetWithinTheirRanges :
    Asks State.reset .credit [16] ∧ Asks State.reset .credit [17] ∧
    Asks State.reset .holdLimit [0] ∧ Asks State.reset .holdLimit [1] ∧
    Asks State.reset .stallLimit [0] ∧ Asks State.reset .stallLimit [1] ∧
    Asks State.reset .stallLimit [50] ∧ Asks State.reset .stallLimit [51] := by decide +kernel

theorem witness_AttachEntersListenOrClearsTheMark :
    (Takeable (asked State.reset .attach [0]) (command .attach [0]) ∧
      Fresh (asked State.reset .attach [0]) (command .attach [0]) ∧ (command .attach [0]).payload ≠ []) ∧
    (Asks State.reset .attach [] ∧ State.reset.engine.phase = .detached) ∧
    (Asks (marked (opened (liveBank .apply false 0) .read (context .read))) .attach [] ∧
      (marked (opened (liveBank .apply false 0) .read (context .read))).engine.phase ≠ .detached) ∧
    (Asks (idle State.reset .recover) .attach [] ∧ (idle State.reset .recover).engine.detaching = false) ∧
    (idle State.reset .listen).engine.phase = .listen := by decide +kernel

theorem witness_DetachIsImmediateOrDeferred :
    Asks State.reset .detach [] ∧ Asks (marked (idle State.reset .address)) .detach [] ∧
    Asks (idle State.reset .ignore) .detach [] ∧
    (Asks (opened (liveBank .apply false 0) .readEnd (context .read)) .detach [] ∧
      phaseSupervised (opened (liveBank .apply false 0) .readEnd (context .read)).engine.phase = true) ∧
    (Asks (opened (liveBank .deny true 0) .hold { context .read with holdReason := some .fetch }) .detach [] ∧
      (liveBank .deny true 0).record 0 = some (record .live (.bank (bank40 .deny true 0)))) := by decide +kernel

/-- The payload of an INSTALL of a bank of 256 bytes, at 0x50. -/
def install256 : List Byte := [0xFF, 0x04, 0x50, 0, 0, 0, 20, 0x00, 0x01, 0, 0x01]

/-- The payload of an INSTALL of a mailbox of depth 8 in slot 47, at 0x08. -/
def installBox : List Byte := [47, 0x45, 0x08, 0, 0, 0, 0, 0, 0, 0, 0x80]

/-- Exactly the 16 blocks a bank of 256 bytes needs are free. -/
def tight : State := { asked State.reset .install install256 with freeBlocks := (List.finRange 128).take 16 }

theorem no_share {s : State} (h : ∀ j, s.record j = none) (q : InstallFields) : ¬SharesAddress s q := by
  rintro ⟨j, r, a, hr, -⟩
  rw [h] at hr
  cases hr

theorem witness_InstallFillsASlot :
    (Takes tight .install (command .install install256) ∧ Accepts tight (installFields install256) 0 ∧
      (installFields install256).kindCode = 0 ∧ tight.store.wf = true ∧ tight.freeBlocks.Pairwise (· < ·) ∧
      tight.freeBlocks.length = ((installFields install256).size.toNat + 15) / 16) ∧
    (Asks State.reset .install installBox ∧
      Accepts (asked State.reset .install installBox) (installFields installBox) 47 ∧
      (installFields installBox).kindCode = 1) := by
  refine ⟨⟨by decide +kernel, ⟨by decide +kernel, ⟨0x50, by decide +kernel⟩, no_share State.record_reset _, ?_,
    by decide +kernel⟩, by decide +kernel, by decide +kernel, by decide +kernel, by decide +kernel⟩,
    by decide +kernel, ⟨by decide +kernel, ⟨0x08, by decide +kernel⟩, no_share State.record_reset _, ?_,
    by decide +kernel⟩, by decide +kernel⟩
  · unfold Chosen
    decide +kernel
  · unfold Chosen
    decide +kernel

/-- An INSTALL of a bank of 40 bytes. -/
def install40 (slot address mask : Byte) : List Byte := installBytes slot 0x04 address mask 40 0x01

theorem no_common_address : ∀ n : Fin 128, ¬(inAddressSet 0x50 0 (BitVec.ofFin n) = true ∧
    inAddressSet (storedAddress 0x60 0) 0 (BitVec.ofFin n) = true) := by decide +kernel

theorem apart (slot : Byte) : ¬SharesAddress (asked (liveBank .deny false 0) .install (install40 slot 0x60 0))
    (installFields (install40 slot 0x60 0)) := by
  rintro ⟨j, r, a, hr, -, h1, h2⟩
  have hr' : (liveBank .deny false 0).record j = some r := hr
  rw [liveBank, having_record] at hr'
  split at hr'
  · cases hr'
    exact no_common_address a.toFin ⟨h1, h2⟩
  · cases hr'

theorem reserved_set : ∀ n : Fin 128, ¬(inAddressSet (storedAddress 0x78 0x07) 0x07 (BitVec.ofFin n) = true ∧
    0x07 < (BitVec.ofFin n : Address).toNat ∧ (BitVec.ofFin n : Address).toNat < 0x78) := by decide +kernel

/-- The cases of R13 at the ends of their ranges: sizes 256 and 257, policies 2 and 3, depths 8 and 9. -/
theorem test_installBadParam_boundaries :
    (installFields install256).size = 256 ∧ installBadParam (installFields install256) = false ∧
    installBadParam { installFields install256 with size := 257 } = true ∧
    installBadParam { installFields install256 with policyCode := 2 } = false ∧
    installBadParam { installFields install256 with policyCode := 3 } = true ∧
    installBadParam { installFields installBox with depth := 8 } = false ∧
    installBadParam { installFields installBox with depth := 9 } = true := by decide +kernel

theorem witness_InstallReportsTheFirstFailedCheck :
    (Asks State.reset .install (install40 48 0x50 0) ∧ Asks State.reset .install (install40 0xFE 0x50 0)) ∧
    (Asks State.reset .install (install40 47 0x80 0) ∧ installBadParam (installFields (install40 47 0x80 0)) = true) ∧
    (Asks State.reset .install (install40 0xFF 0x78 0x07) ∧
      installBadParam (installFields (install40 0xFF 0x78 0x07)) = false ∧
      ¬HasUsableAddress (installFields (install40 0xFF 0x78 0x07))) ∧
    (Asks (liveBank .deny false 0) .install (install40 0xFF 0x50 0) ∧
      HasUsableAddress (installFields (install40 0xFF 0x50 0)) ∧
      SharesAddress (asked (liveBank .deny false 0) .install (install40 0xFF 0x50 0))
        (installFields (install40 0xFF 0x50 0))) ∧
    (Asks (liveBank .deny false 0) .install (install40 0 0x60 0) ∧
      HasUsableAddress (installFields (install40 0 0x60 0)) ∧
      ¬SharesAddress (asked (liveBank .deny false 0) .install (install40 0 0x60 0))
        (installFields (install40 0 0x60 0)) ∧
      ∀ i, ¬Chosen (asked (liveBank .deny false 0) .install (install40 0 0x60 0))
        (installFields (install40 0 0x60 0)) i) ∧
    (Asks { State.reset with freeBlocks := [3, 7] } .install (install40 0xFF 0x60 0) ∧
      HasUsableAddress (installFields (install40 0xFF 0x60 0)) ∧
      ¬SharesAddress (asked { State.reset with freeBlocks := [3, 7] } .install (install40 0xFF 0x60 0))
        (installFields (install40 0xFF 0x60 0)) ∧
      Chosen (asked { State.reset with freeBlocks := [3, 7] } .install (install40 0xFF 0x60 0))
        (installFields (install40 0xFF 0x60 0)) 0 ∧
      2 < ((installFields (install40 0xFF 0x60 0)).size.toNat + 15) / 16) := by
  refine ⟨by decide +kernel, by decide +kernel, ⟨by decide +kernel, by decide +kernel, ?_⟩,
    ⟨by decide +kernel, ⟨0x50, by decide +kernel⟩,
      ⟨0, record .live (.bank (bank40 .deny false 0)), 0x50, by decide +kernel⟩⟩,
    ⟨by decide +kernel, ⟨0x60, by decide +kernel⟩, apart 0, ?_⟩,
    ⟨by decide +kernel, ⟨0x60, by decide +kernel⟩, no_share State.record_reset _, ?_, by decide +kernel⟩⟩
  · rintro ⟨a, h⟩
    exact reserved_set a.toFin h
  · unfold Chosen
    decide +kernel
  · unfold Chosen
    decide +kernel

theorem witness_LifecycleCommandsMoveTheState :
    (AsksSlot0 (having (record .staged (.mailbox (box true [])))) .activate [0] ∧
      (having (record .staged (.mailbox (box true [])))).record 0 = some (record .staged (.mailbox (box true [])))) ∧
    (AsksSlot0 (liveBank .deny false 0) .quiesce [0] ∧
      (liveBank .deny false 0).record 0 = some (record .live (.bank (bank40 .deny false 0)))) ∧
    (AsksSlot0 (having (record .quiesced (.mailbox (box true [])))) .resume [0] ∧
      (having (record .quiesced (.mailbox (box true [])))).record 0 =
        some (record .quiesced (.mailbox (box true [])))) := by decide +kernel

/-- A bank read held for data. -/
def fetching : State := opened (liveBank .deny true 0) .hold { context .read with holdReason := some .fetch }

/-- A bank being read. -/
def reading : State := opened (liveBank .apply false 0) .read (context .read)

theorem witness_RetireFreesDefersOrEndsAHold :
    (AsksSlot0 (liveBank .deny false 0) .retire [0] ∧ (liveBank .deny false 0).pinned 0 = false) ∧
    (AsksSlot0 reading .retire [0] ∧ reading.pinned 0 = true ∧ reading.engine.phase ≠ .hold) ∧
    (AsksSlot0 fetching .retire [0] ∧ fetching.engine.phase = .hold ∧
      fetching.engine.ctx = some { context .read with holdReason := some .fetch } ∧
      fetching.record 0 = some (record .live (.bank (bank40 .deny true 0)))) := by decide +kernel

theorem witness_QueryAndLookupReport :
    (Asks State.reset .query [47] ∧ Names (command .query [47]) 47 ∧ State.reset.record 47 = none) ∧
    (AsksSlot0 reading .query [0] ∧ reading.record 0 = some (record .live (.bank (bank40 .apply false 0)))) ∧
    (AsksSlot0 (liveBox true [6]) .query [0] ∧
      (liveBox true [6]).record 0 = some (record .live (.mailbox (box true [6])))) ∧
    Asks State.reset .lookup [0x80] ∧ (Asks State.reset .lookup [0x7F] ∧ resolve State.reset.table 0x7F = none) ∧
    (Asks reading .lookup [0x50] ∧
      resolve reading.table 0x50 = some (0, record .live (.bank (bank40 .apply false 0)))) := by decide +kernel

theorem box_ranges (inbound : Bool) : (box inbound []).ranges := by
  unfold Mailbox.ranges
  decide +revert

theorem witness_TouchRefreshes :
    (Takeable (asked State.reset .touch []) (command .touch []) ∧
      Fresh (asked State.reset .touch []) (command .touch []) ∧ (command .touch []).payload.length ≠ 1) ∧
    Asks State.reset .touch [48] ∧ (AsksSlot0 State.reset .touch [0] ∧ State.reset.record 0 = none) ∧
    (AsksSlot0 (having (record .retiring (.mailbox (box true [])))) .touch [0] ∧
      (having (record .retiring (.mailbox (box true [])))).record 0 ≠ none) ∧
    (AsksSlot0 reading .touch [0] ∧ reading.record 0 = some (record .live (.bank (bank40 .apply false 0)))) ∧
    (AsksSlot0 (having { record .live (.mailbox (box true [])) with interval := 0, remaining := 0 }) .touch [0] ∧
      ({ record .live (.mailbox (box true [])) with interval := 0, remaining := 0 } : Record).ranges) :=
  ⟨by decide +kernel, by decide +kernel, by decide +kernel, by decide +kernel, by decide +kernel,
    by decide +kernel, by decide +kernel, by decide +kernel, by decide +kernel, box_ranges _⟩

/-- The bank of the examples has its fields in range, and its blocks are distinct. -/
theorem bank40_ranges : (bank40 .deny true 0).ranges ∧ (bank40 .apply false 0).ranges ∧
    (bank40 .apply false 39).ranges ∧ (bank40 .apply false 39).blocks.Nodup := by
  unfold Bank.ranges
  decide +kernel

theorem witness_LoadWritesTheWindowAtOnce :
    AsksSlot0 (liveBank .apply false 0) .load [0, 38, 1, 2] ∧
    (liveBank .apply false 0).record 0 = some (record .live (.bank (bank40 .apply false 0))) ∧
    (byteAt [0, 38, 1, 2] 1).toNat + [(1 : Byte), 2].length = (bank40 .apply false 0).size ∧
    (liveBank .apply false 0).pinned 0 = false ∧ (liveBank .apply false 0).store.wf = true ∧
    (bank40 .apply false 0).ranges ∧ (bank40 .apply false 0).blocks.Nodup :=
  ⟨by decide +kernel, by decide +kernel, by decide +kernel, by decide +kernel, by decide +kernel,
    bank40_ranges.2.1, bank40_ranges.2.2.2⟩

theorem witness_LoadToAPinnedBankIsHeldOrBusy :
    (AsksSlot0 (liveBox true []) .load [0, 0, 1] ∧
      (liveBox true []).record 0 = some (record .live (.mailbox (box true [])))) ∧
    (AsksSlot0 reading .load [0, 39, 1, 2] ∧ (bank40 .apply false 0).size < 39 + 2) ∧
    (AsksSlot0 { reading with updateHold := [entry, entry, entry] } .load [0, 38, 1, 2] ∧
      reading.pinned 0 = true ∧ [entry, entry, entry].length < 4) ∧
    (AsksSlot0 { reading with updateHold := [entry, entry, entry, entry] } .load [0, 38, 1, 2] ∧
      4 ≤ [entry, entry, entry, entry].length) := by decide +kernel

theorem witness_ReadAnswersTheStoreBytes :
    (Takeable (asked State.reset .read [0, 0]) (command .read [0, 0]) ∧
      Fresh (asked State.reset .read [0, 0]) (command .read [0, 0])) ∧
    Asks State.reset .read [48, 0, 1] ∧ AsksSlot0 State.reset .read [0, 0, 0] ∧
    AsksSlot0 State.reset .read [0, 0, 49] ∧ (AsksSlot0 State.reset .read [0, 0, 48] ∧ State.reset.record 0 = none) ∧
    AsksSlot0 (liveBox true []) .read [0, 0, 1] ∧ AsksSlot0 reading .read [0, 40, 1] ∧
    (AsksSlot0 reading .read [0, 39, 1] ∧ reading.record 0 = some (record .live (.bank (bank40 .apply false 0)))) :=
  ⟨by decide +kernel, by decide +kernel, by decide +kernel, by decide +kernel, by decide +kernel, by decide +kernel,
    by decide +kernel, by decide +kernel⟩

theorem witness_FillAnswersTheHoldOrIsALateLoad :
    (fetching.engine.stretching = true ∧ heldAtRise.engine.stretching = false) ∧
    (AsksSlot0 fetching .fill [0, 38, 1, 2] ∧ fetching.record 0 = some (record .live (.bank (bank40 .deny true 0))) ∧
      fetching.engine.phase = .hold ∧ fetching.engine.ctx = some { context .read with holdReason := some .fetch } ∧
      fetching.store.wf = true ∧ (bank40 .deny true 0).ranges ∧ (bank40 .deny true 0).blocks.Nodup) ∧
    AsksSlot0 (liveBox true []) .fill [0, 0, 1] ∧ AsksSlot0 fetching .fill [0, 40, 1] ∧
    (AsksSlot0 (liveBank .deny true 0) .fill [0, 39, 1] ∧ (liveBank .deny true 0).pinned 0 = false) ∧
    (AsksSlot0 { reading with updateHold := [entry, entry, entry] } .fill [0, 39, 1] ∧
      reading.engine.ctx = some (context .read) ∧
      ¬(reading.engine.phase = .hold ∧ (context .read).holdReason = some .fetch)) ∧
    AsksSlot0 { reading with updateHold := [entry, entry, entry, entry] } .fill [0, 39, 1] :=
  ⟨by decide +kernel, ⟨by decide +kernel, by decide +kernel, by decide +kernel, by decide +kernel, by decide +kernel,
    bank40_ranges.1, bank40_ranges.2.2.2⟩, by decide +kernel, by decide +kernel, by decide +kernel,
    by decide +kernel, by decide +kernel⟩

theorem witness_PostAppendsTheMessage :
    (AsksSlot0 State.reset .post [0, 1, 7] ∧ State.reset.record 0 = none ∧
      AsksSlot0 (having (record .retiring (.mailbox (box true [])))) .post [0, 1, 7] ∧
      (having (record .retiring (.mailbox (box true [])))).record 0 =
        some (record .retiring (.mailbox (box true [])))) ∧
    (AsksSlot0 (liveBox true []) .post [0, 2, 7] ∧ (byteAt [0, 2, 7] 1).toNat ≠ (([0, 2, 7] : List Byte).drop 2).length) ∧
    (AsksSlot0 (liveBank .apply false 0) .post [0, 1, 7] ∧
      (liveBank .apply false 0).record 0 = some (record .live (.bank (bank40 .apply false 0)))) ∧
    (AsksSlot0 (liveBox true [6, 7]) .post [0, 1, 7] ∧ (box true [6, 7]).depth ≤ (box true [6, 7]).queue.length) ∧
    (AsksSlot0 { liveBox true [6] with freeBuffers := [] } .post [0, 1, 7] ∧
      (box true [6]).queue.length < (box true [6]).depth) ∧
    (AsksSlot0 { liveBox true [6] with freeBuffers := [7, 63] } .post [0, 1, 7] ∧
      (liveBox true [6]).record 0 = some (record .live (.mailbox (box true [6]))) ∧
      List.Pairwise (· < ·) ([7, 63] : List BufferNo)) :=
  ⟨by decide +kernel, by decide +kernel⟩

theorem witness_FlushRemovesAllButTheServedMessage :
    AsksSlot0 (liveBank .apply false 0) .flush [0] ∧
    (AsksSlot0 (liveBox true [6, 7]) .flush [0] ∧ (liveBox true [6, 7]).engine.ctx = none) ∧
    (AsksSlot0 (opened (liveBox true [6, 7]) .read { context .read with served := .message 6 }) .flush [0] ∧
      (liveBox true [6, 7]).record 0 = some (record .live (.mailbox (box true [6, 7]))) ∧
      (box true [6, 7]).queue = 6 :: [7] ∧ (box true [6, 7]).queue.Nodup) := by decide +kernel

/-- Four frames in the inbox. -/
def fullInbox (s : State) : State := { s with link := { s.link with inbox := List.replicate 4 (frame 0x01 []) } }

theorem witness_TheReceiverTakesCharactersAndEndsFrames :
    (State.reset.hardReset = false ∧ State.reset.link.receiver = .hunt ∧
      (receiving .frameLen).link.receiver = .frameLen ∧ (receiving .lineBreak).link.receiver = .lineBreak) ∧
    ((receiving (.frameBody 2 [0x01])).link.receiver = .frameBody 2 [0x01] ∧ [(0x01 : Byte)].length < 2) ∧
    ((receiving (.frameBody 2 [0x01, 0x01])).link.receiver = .frameBody 2 [0x01, 0x01] ∧
      [(0x01 : Byte), 0x01].length = 2 ∧ crcOf (natByte 2 :: [0x01, 0x01]) = 0xC4 ∧
      crcOf (natByte 2 :: [0x01, 0x01]) ≠ 0xC5 ∧ (receiving (.frameBody 2 [0x01, 0x01])).link.inbox.length < 4 ∧
      4 ≤ (fullInbox (receiving (.frameBody 2 [0x01, 0x01]))).link.inbox.length) := by decide +kernel

theorem witness_AFrameOnTheLineIsReceivedWhole :
    (State.reset.link.sending = none ∧ (after .frameStart State.reset).link.sending = some (.hello (helloFrame .hard)) ∧
      (after .frameStart State.reset).ltxBytes = some (frameWire (helloFrame .hard)) ∧
      (frameWire (helloFrame .hard)).length = 13) ∧
    State.reset.link.receiver = .hunt ∧ (frame 0x20 (List.replicate 58 0xB7)).payload.length ≤ 58 ∧
    State.reset.link.inbox.length < 4 := by decide +kernel

theorem witness_LineErrorsAndTheBreak :
    (receiving .frameLen).hardReset = false ∧ (receiving .frameLen).link.receiver ≠ .lineBreak ∧
    (receiving .frameLen).link.receiver = .frameLen ∧
    (receiving (.frameBody 60 [])).link.receiver = .frameBody 60 [] ∧
    (receiving .lineBreak).hardReset = false ∧ (receiving .lineBreak).link.receiver = .lineBreak := by
  decide +kernel

/-- The reset state with no HELLO pending. -/
def quietLink : State := { State.reset with link := { State.reset.link with hello := none } }

/-- A notice frame on LTX, its notice at the head, and an open SPACE hold. -/
def sendingNotice (rest : List Notice) : State :=
  { noticed (opened (liveBank .forward false 0) .hold { context .write with holdReason := some .space })
      (staleNotice :: rest) 0 with
    link := { quietLink.link with sending := some (.notice (noticeFrame 0 false staleNotice) false) } }

theorem witness_FrameStartFollowsTheOrderOfPreference :
    (after .frameStart State.reset).link.sending ≠ none ∧
    (State.reset.hardReset = false ∧ State.reset.link.sending = none ∧ State.reset.link.hello = some .hard ∧
      State.reset.link.receiver ≠ .lineBreak) ∧
    (quietLink.link.sending = none ∧ quietLink.link.hello = none) ∧
    (noticed quietLink [staleNotice] 1).notices.completed = staleNotice :: [] ∧
    1 ≤ (noticed quietLink [staleNotice] 1).notices.credit ∧
    (noticed quietLink [staleNotice] 0).notices.credit = 0 ∧
    ((receiving .lineBreak).link.hello = some .hard ∧ (receiving .lineBreak).link.receiver = .lineBreak) ∧
    (∃ start data, NoticeBody.write 255 [1] = .write start data ∧ (0x40 : Byte) = 0x40 ∧
      ([255, 1] : List Byte) = BitVec.ofNat 8 start :: data) ∧
    (∃ p, NoticeBody.fetch 256 = .fetch p ∧ (0x48 : Byte) = 0x48 ∧
      ([0, 1] : List Byte) = [BitVec.ofNat 8 p, BitVec.ofNat 8 (p / 256)]) :=
  ⟨by decide +kernel, by decide +kernel, by decide +kernel, by decide +kernel, by decide +kernel, by decide +kernel,
    by decide +kernel, ⟨255, [1], rfl, rfl, rfl⟩, 256, rfl, rfl, by decide +kernel⟩

/-- The state with this frame on LTX, these responses queued, and this HELLO pending. -/
def sendingOn (s : State) (x : Sending) (responses : List Frame) (hello : Option HelloCause) : State :=
  { s with link := { quietLink.link with sending := some x, responses := responses, hello := hello } }

theorem witness_ASentFrameIsReleasedByItsSource :
    ((after .frameStart State.reset).link.sending = some (.hello (helloFrame .hard)) ∧
      (after .frameStart State.reset).link.responses = [] ∧ (after .frameStart State.reset).notices.credit = 0) ∧
    ({ quietLink.link with
        sending := some (.response (frame 0x81 [])), responses := [frame 0x81 [], frame 0x82 []] } : Link).responses =
      [frame 0x81 [], frame 0x82 []] ∧
    (sendingNotice []).link.sending = some (.notice (noticeFrame 0 false staleNotice) false) ∧
    (sendingNotice []).notices.completed = staleNotice :: [] ∧ (sendingNotice []).engine.phase = .hold ∧
    (sendingNotice []).engine.ctx = some { context .write with holdReason := some .space } ∧
    (sendingNotice []).record 0 = some (record .live (.bank (bank40 .forward false 0))) ∧
    ((List.replicate 23 writeNotice ++ List.replicate 8 staleNotice).countP Notice.isData < 24 ∧
      (List.replicate 23 writeNotice ++ List.replicate 8 staleNotice).length < 32) ∧
    24 ≤ (List.replicate 24 writeNotice).countP Notice.isData ∧
    ((sendingOn State.reset (.hello (helloFrame .hard)) [frame 0x81 []] (some .hard)).link.sending =
        some (.hello (helloFrame .hard)) ∧
      (sendingOn State.reset (.response (frame 0x81 [])) (List.replicate 4 (frame 0x81 [])) (some .link)).link.responses =
        frame 0x81 [] :: List.replicate 3 (frame 0x81 []) ∧
      (sendingOn (noticed State.reset [staleNotice, staleNotice] 1) (.notice (noticeFrame 0 true staleNotice) true) []
        none).notices.completed = staleNotice :: [staleNotice] ∧
      ({ sendingNotice [] with notices := { (sendingNotice []).notices with reservation := true } } :
        State).notices.reservation = true ∧
      (reading.engine.phase ≠ .hold ∧ 32 ≤ (List.replicate 32 staleNotice).length)) := by decide +kernel

theorem witness_TheHardwareResetClearsThePart :
    (after .hardwareReset State.reset).hardReset = true ∧ Instr.startCondition ≠ .hardwareReset := by decide +kernel

/-- A state with a bank being read and a mailbox with one message, an entry held and a frame waiting. -/
def working : State :=
  { reading with
    table := (reading.setRecord 1 (some { record .live (.mailbox (box true [6])) with address := 0x62 })).table
    updateHold := [entry]
    freeBlocks := (List.finRange 128).filter fun k => !(([3, 7, 8] : List BlockNo).contains k)
    freeBuffers := (List.finRange 64).filter fun k => k != 6
    buffers := reading.buffers.set 6 { length := 1, bytes := 0x41 :: List.replicate 31 0 }
    link := { reading.link with inbox := [frame 0x01 []] }
    pending := [.readByteDrive] }

theorem working_record (i : Slot) : working.record i =
    if i = 0 then some (record .live (.bank (bank40 .apply false 0)))
    else if i = 1 then some { record .live (.mailbox (box true [6])) with address := 0x62 } else none := by
  have h : ∀ i : Fin 48, working.record i = if i = 0 then some (record .live (.bank (bank40 .apply false 0)))
    else if i = 1 then some { record .live (.mailbox (box true [6])) with address := 0x62 } else none := by
    decide +kernel
  exact h i

theorem working_blocksOf (i : Slot) : working.blocksOf i = if i = 0 then [3, 7, 8] else [] := by
  revert i
  decide +kernel

theorem working_queueOf (i : Slot) : working.queueOf i = if i = 1 then [6] else [] := by
  revert i
  decide +kernel

theorem working_overlap : OverlapLaw working := by
  intro i j r q hr hq hij hs
  rw [working_record] at hr hq
  split at hr
  · cases hr
    split at hq
    · rename_i hi hj
      exact absurd (hi.trans hj.symm) hij
    · split at hq
      · cases hq
        decide +kernel
      · cases hq
  · split at hr
    · cases hr
      split at hq
      · cases hq
        decide +kernel
      · split at hq
        · rename_i _ hi _ hj
          exact absurd (hi.trans hj.symm) hij
        · cases hq
    · cases hr

theorem witness_TheMostSpecificCandidateResolves : OverlapLaw working ∧
    resolve working.table 0x50 = some (0, record .live (.bank (bank40 .apply false 0))) :=
  ⟨working_overlap, by decide +kernel⟩

/-- A record in ADDRESS, the engine waiting for the address byte. -/
def addressed (r : Record) : State := idle (having r) .address

theorem witness_AnAddressIsRefused :
    (marked (idle State.reset .address)).engine.detaching = true ∧
    ((idle State.reset .address).hardReset = false ∧ (idle State.reset .address).engine.phase = .address ∧
      resolve (idle State.reset .address).table 0x50 = none) ∧
    resolve (addressed (record .quiesced (.mailbox (box true [])))).table 0x50 =
      some (0, record .quiesced (.mailbox (box true []))) ∧
    resolve (addressed { record .live (.mailbox (box true [])) with stale := true, stalePolicy := .refuse }).table 0x50 =
      some (0, { record .live (.mailbox (box true [])) with stale := true, stalePolicy := .refuse }) ∧
    resolve (addressed (record .live (.mailbox (box false [])))).table 0x50 =
      some (0, record .live (.mailbox (box false []))) := by decide +kernel

/-- The state with no room for one more data notice. -/
def fullOfData (s : State) : State := noticed s (List.replicate 24 writeNotice) 0

/-- The state with no room for any notice. -/
def fullOfNotices (s : State) : State := noticed s (List.replicate 32 staleNotice) 0

theorem witness_AnAddressIsAcknowledged :
    (addressed (record .live (.bank (bank40 .apply false 0)))).hardReset = false ∧
    (addressed (record .live (.bank (bank40 .apply false 0)))).engine.phase = .address ∧
    (addressed (record .live (.bank (bank40 .apply false 0)))).engine.detaching = false ∧
    resolve (addressed (record .live (.bank (bank40 .apply false 0)))).table ((0xA0 : Byte).extractLsb' 1 7) =
      some (0, record .live (.bank (bank40 .apply false 0))) ∧
    resolve (addressed (record .live (.bank (bank40 .forward false 0)))).table ((0xA0 : Byte).extractLsb' 1 7) =
      some (0, record .live (.bank (bank40 .forward false 0))) ∧
    (addressed (record .live (.bank (bank40 .forward false 0)))).notices.canReserve = true ∧
    (noticed State.reset (List.replicate 23 writeNotice ++ List.replicate 8 staleNotice) 0).notices.canReserve = true ∧
    resolve (addressed (record .live (.mailbox (box true [])))).table ((0xA1 : Byte).extractLsb' 1 7) =
      some (0, record .live (.mailbox (box true []))) := by decide +kernel

theorem witness_AnAddressIsHeld :
    resolve (addressed (record .live (.bank (bank40 .deny true 0)))).table ((0xA1 : Byte).extractLsb' 1 7) =
      some (0, record .live (.bank (bank40 .deny true 0))) ∧
    (fullOfNotices (addressed (record .live (.bank (bank40 .deny true 0))))).notices.completed.length = 32 ∧
    resolve (fullOfData (addressed (record .live (.bank (bank40 .forward false 0))))).table
      ((0xA0 : Byte).extractLsb' 1 7) = some (0, record .live (.bank (bank40 .forward false 0))) ∧
    (fullOfData (addressed (record .live (.bank (bank40 .forward false 0))))).notices.canReserve = false := by
  decide +kernel

theorem witness_ThePointerBytePlacesTheBusPointer :
    (opened (liveBank .apply false 0) .pointer (context .write)).hardReset = false ∧
    (opened (liveBank .apply false 0) .pointer (context .write)).engine.ctx = some (context .write) ∧
    (liveBank .apply false 0).record 0 = some (record .live (.bank (bank40 .apply false 0))) ∧
    (39 : Byte).toNat < (bank40 .apply false 0).size ∧ (bank40 .apply false 0).size ≤ (40 : Byte).toNat := by
  decide +kernel

/-- A bank being written. -/
def writing (policy : WritePolicy) (pointer collected : Nat) : State :=
  opened (liveBank policy false pointer) .write { context .write with collected := List.replicate collected 1 }

theorem witness_ABankWriteByteFollowsTheWritePolicy :
    ((writing .deny 0 0).engine.phase = .write ∧
      (writing .deny 0 0).record 0 = some (record .live (.bank (bank40 .deny false 0)))) ∧
    ((writing .apply 39 0).engine.ctx = some (context .write) ∧
      (writing .apply 39 0).record 0 = some (record .live (.bank (bank40 .apply false 39))) ∧
      (writing .apply 39 0).store.wf = true ∧ (bank40 .apply false 39).ranges ∧
      (bank40 .apply false 39).blocks.Nodup) ∧
    (bank40 .apply false 40).size ≤ (bank40 .apply false 40).pointer ∧
    ((writing .forward 39 31).engine.ctx = some { context .write with collected := List.replicate 31 1 } ∧
      (writing .forward 39 31).record 0 = some (record .live (.bank (bank40 .forward false 39)))) ∧
    (writing .forward 39 32).engine.ctx = some { context .write with collected := List.replicate 32 1 } :=
  ⟨by decide +kernel, ⟨by decide +kernel, by decide +kernel, by decide +kernel, bank40_ranges.2.2.1,
    bank40_ranges.2.2.2⟩, by decide +kernel, by decide +kernel, by decide +kernel⟩

theorem witness_AMailboxWriteByteIsCollectedUpTo32 :
    (opened (liveBox true []) .write { context .write with collected := List.replicate 31 1 }).engine.ctx =
      some { context .write with collected := List.replicate 31 1 } ∧
    (opened (liveBox true []) .write { context .write with collected := List.replicate 32 1 }).engine.phase = .write ∧
    (liveBox true []).record 0 = some (record .live (.mailbox (box true []))) := by decide +kernel

theorem witness_TheNextReadByteIsDriven :
    (reading.hardReset = false ∧ reading.engine.phase = .read ∧ reading.engine.ctx = some (context .read) ∧
      reading.record 0 = some (record .live (.bank (bank40 .apply false 0))) ∧ reading.engine.sda.driving = false) ∧
    (after .readByteDrive reading).engine.sda.driving = true ∧
    ((opened (liveBox true []) .read (context .read)).record 0 = some (record .live (.mailbox (box true [])))) ∧
    ((opened (liveBox true [6]) .read { context .read with served := .message 6 }).record 0 =
      some (record .live (.mailbox (box true [6])))) := by decide +kernel

theorem witness_TheAcknowledgeCountsTheReadByte :
    ((after .readByteDrive reading).engine.phase = .read ∧
      (after .readByteDrive reading).engine.sda = .data .window 0 0 ∧
      (bank40 .apply false 0).pointer < (bank40 .apply false 0).size) ∧
    (after .readByteDrive (opened (liveBox true []) .read (context .read))).engine.sda = .data .length 0 0 ∧
    (after .readByteDrive (opened (liveBox true []) .read { context .read with served := .empty })).engine.sda =
      .data .pad 0xFF 0 ∧
    (after .readByteDrive { opened (liveBox true [6]) .read { context .read with served := .message 6 } with
      buffers := State.reset.buffers.set 6 { length := 1, bytes := [0x41] } }).engine.sda = .data .message 0x41 0 := by
  decide +kernel

/-- The state with this on SDA. -/
def onSda (s : State) (x : Sda) : State := { s with engine := { s.engine with sda := x } }

theorem witness_AnSclEdgeRestartsTheStallTimer :
    (reading.hardReset = false ∧ phaseSupervised reading.engine.phase = true ∧ reading.engine.stallTimer ≠ none ∧
      phaseSupervised State.reset.engine.phase = false) ∧
    (onSda reading (.ack .due)).engine.sda = .ack .due ∧ (onSda reading (.ack .driven)).engine.sda = .ack .driven ∧
    (onSda reading (.ack .clocked)).engine.sda = .ack .clocked ∧ (onSda reading .nack).engine.sda = .nack ∧
    (∃ source v n, (onSda reading (.data .window 0x80 15)).engine.sda = .data source v n ∧ n < 16 ∧ n % 2 = 1) ∧
    (∃ source v n, (onSda reading (.data .window 0x80 16)).engine.sda = .data source v n ∧ ¬n < 16) ∧
    (fetching.hardReset = false ∧ fetching.engine.phase = .hold ∧ fetching.engine.sda = .released ∧
      fetching.sclHeldLow = true ∧ heldAtRise.engine.phase = .hold ∧ heldAtRise.sclHeldLow = false ∧
      State.reset.engine.phase ≠ .hold) ∧
    (onSda reading (.data .window 0x80 1)).sdaDriven = false ∧
    (onSda reading (.data .window 0x80 15)).sdaDriven = true :=
  ⟨by decide +kernel, rfl, rfl, rfl, rfl, ⟨.window, 0x80, 15, rfl, by decide, by decide⟩,
    ⟨.window, 0x80, 16, rfl, by decide⟩, by decide +kernel, by decide +kernel, by decide +kernel⟩

/-- SDA after each falling edge of SCL, the rising edges between them. -/
def drivenAtFalls : Nat → State → List Bool
  | 0, _ => []
  | n + 1, s =>
    let t := after (.sclEdge .falling) s
    t.sdaDriven :: drivenAtFalls n (after (.sclEdge .rising) t)

/-- R68: the ACK of a write byte is driven after the fall of the eighth clock and released after the fall of the
acknowledge clock, so that SDA is released when 9.6's bus controller stops. -/
theorem test_ack_is_released : drivenAtFalls 3 (after (.bankWriteByte 0x61)
    (opened (liveBank .forward false 4) .write (context .write))) = [true, false, false] := by decide +kernel

/-- R70: of 0xA5, whose first bit is a 1, the seven further bits are placed at the falls of the first seven clocks,
and SDA is released at the fall of the eighth. -/
theorem test_read_bits : (onSda reading (.data .window 0xA5 0)).sdaDriven = false ∧
    drivenAtFalls 8 (after (.sclEdge .rising) (onSda reading (.data .window 0xA5 0))) =
      [true, false, true, true, false, true, false, false] := by decide +kernel

theorem witness_ConditionsMoveTheEngine :
    State.reset.engine.phase = .detached ∧ (idle State.reset .recover).engine.phase = .recover ∧
    (marked (idle State.reset .address)).engine.detaching = true ∧ phasePins reading.engine.phase = true := by
  decide +kernel

/-- A FORWARD write with a reservation and some collected bytes. -/
def forwarding (collected : List Byte) : State :=
  { opened (liveBank .forward false 4) .write { context .write with reserved := true, collected := collected } with
    notices := { NoticeQueue.reset with reservation := true } }

theorem witness_AWriteEndsWithItsNotice :
    ((forwarding [7]).hardReset = false ∧ phasePins (forwarding [7]).engine.phase = true ∧
      (forwarding [7]).engine.ctx = some { context .write with reserved := true, collected := [7] } ∧
      (forwarding [7]).record 0 = some (record .live (.bank (bank40 .forward false 4))) ∧
      ({ forwarding [7] with updateHold := [entry] } : State).engine.ctx =
        some { context .write with reserved := true, collected := [7] }) ∧
    (forwarding []).engine.ctx = some { context .write with reserved := true } ∧
    (writing .deny 0 0).engine.ctx = some (context .write) := by decide +kernel

/-- A mailbox being read with a served message that carries this head-flushed mark. -/
def servedBox (mark : Bool) : State :=
  opened (having (record .live (.mailbox { box true [6, 7] with headFlushed := mark }))) .read
    { context .read with served := .message 6 }

theorem witness_TheServedMessageIsSettled :
    (opened (liveBox true [6, 7]) .read { context .read with served := .message 6 }).engine.ctx =
      some { context .read with served := .message 6 } ∧
    (liveBox true [6, 7]).record 0 = some (record .live (.mailbox (box true [6, 7]))) ∧
    (box true [6, 7]).queue = 6 :: [7] ∧ (box true [6, 7]).headFlushed = false ∧
    (liveBox true [6, 7]).updateHold = [] ∧
    (context .read).headServed = ((liveBox true [6, 7]).buffer 6).length ∧
    (phasePins (servedBox true).engine.phase = true ∧
      (servedBox true).engine.ctx = some { context .read with served := .message 6 } ∧
      (servedBox true).record 0 = some (record .live (.mailbox { box true [6, 7] with headFlushed := true }))) ∧
    (({ servedBox false with buffers := State.reset.buffers.set 6 { length := 1, bytes := [0x41] } } : State).buffer
      6).length ≠ (context .read).headServed := by decide +kernel

theorem witness_HeldLoadsAreAppliedAtTheEnd :
    working.engine.ctx = some (context .read) ∧
    working.record 0 = some (record .live (.bank (bank40 .apply false 0))) ∧ EndCause.stop ≠ .retire ∧
    working.store.wf = true ∧ (bank40 .apply false 0).ranges ∧ (bank40 .apply false 0).blocks.Nodup ∧
    ∀ h ∈ working.updateHold, h.slot = (context .read).slot ∧ h.offset + h.data.length ≤ 40 :=
  ⟨by decide +kernel, by decide +kernel, by decide, by decide +kernel, bank40_ranges.2.1, bank40_ranges.2.2.2,
    by decide +kernel⟩

/-- A RETIRING bank being read. -/
def retiring : State := opened (having (record .retiring (.bank (bank40 .apply false 0)))) .read (context .read)

/-- A RETIRING mailbox being read, with a served message. -/
def retiringServed : State :=
  opened (having (record .retiring (.mailbox (box true [6, 7])))) .read { context .read with served := .message 6 }

/-- A RETIRING FORWARD bank being written, with a reservation, a collected byte and this many notices queued. -/
def retiringWrite (queued : Nat) : State :=
  { opened (having (record .retiring (.bank (bank40 .forward false 4)))) .write
      { context .write with reserved := true, collected := [7] } with
    notices := { NoticeQueue.reset with completed := List.replicate queued staleNotice, reservation := true } }

theorem witness_ADeferredRetirementIsCompleted :
    (retiring.engine.ctx = some (context .read) ∧
      retiring.record 0 = some (record .retiring (.bank (bank40 .apply false 0))) ∧
      (context .read).reserved = false ∧ (context .read).served = .unfixed) ∧
    (noticed retiring (List.replicate 31 staleNotice) 0).notices.completed.length +
      (noticed retiring (List.replicate 31 staleNotice) 0).notices.reservation.toNat = 31 ∧
    (fullOfNotices retiring).notices.completed.length +
      (fullOfNotices retiring).notices.reservation.toNat = 32 ∧
    ((retiringWrite 30).engine.ctx = some { context .write with reserved := true, collected := [7] } ∧
      (retiringWrite 30).record 0 = some (record .retiring (.bank (bank40 .forward false 4))) ∧
      (retiringWrite 30).hardReset = false ∧ phasePins (retiringWrite 30).engine.phase = true) ∧
    (retiringWrite 31).engine.ctx = some { context .write with reserved := true, collected := [7] } ∧
    (retiringServed.engine.ctx = some { context .read with served := .message 6 } ∧
      retiringServed.record 0 = some (record .retiring (.mailbox (box true [6, 7]))) ∧
      (box true [6, 7]).queue = 6 :: [7] ∧ phasePins retiringServed.engine.phase = true) := by decide +kernel

/-- R25, with 30 and with 31 entries queued: the WRITE notice goes ahead of RETIRED, or takes the last entry. -/
theorem test_deferred_retirement_of_a_write :
    ((after .stopCondition (retiringWrite 30)).notices.completed.drop 30).map Notice.body =
      [.write 0 [7], .retired] ∧
    ((after .stopCondition (retiringWrite 31)).notices.completed.drop 31).map Notice.body = [.write 0 [7]] ∧
    (after .stopCondition (retiringWrite 31)).notices.overflow = true := by decide +kernel

theorem witness_AHoldExpires :
    fetching.hardReset = false ∧ fetching.engine.phase = .hold ∧
    fetching.engine.ctx = some { context .read with holdReason := some .fetch } ∧
    fetching.engine.holdTimer ≠ none ∧
    fetching.record 0 = some (record .live (.bank (bank40 .deny true 0))) ∧
    (fullOfNotices fetching).notices.completed.length = 32 := by decide +kernel

theorem witness_AStalledTransactionIsAbandoned :
    ((forwarding [7]).hardReset = false ∧ phaseSupervised (forwarding [7]).engine.phase = true ∧
      (forwarding [7]).engine.ctx = some { context .write with reserved := true, collected := [7] } ∧
      (forwarding [7]).engine.stallTimer ≠ none ∧
      (forwarding [7]).record 0 = some (record .live (.bank (bank40 .forward false 4))) ∧
      (forwarding [7]).notices.reservation = true) ∧
    (fullOfNotices reading).notices.completed.length = 32 ∧
    (phaseSupervised retiring.engine.phase = true ∧ retiring.engine.stallTimer ≠ none ∧
      (noticed retiring (List.replicate 30 staleNotice) 0).notices.completed.length + 2 ≤ 32 ∧
      retiring.notices.reservation = (context .read).reserved) ∧
    ((servedBox false).engine.ctx = some { context .read with served := .message 6 } ∧
      (servedBox false).record 0 = some (record .live (.mailbox (box true [6, 7]))) ∧
      (servedBox true).record 0 = some (record .live (.mailbox { box true [6, 7] with headFlushed := true })) ∧
      phaseSupervised (servedBox true).engine.phase = true ∧ (servedBox true).engine.stallTimer ≠ none ∧
      (servedBox true).notices.reservation = (context .read).reserved) ∧
    ((retiringWrite 31).notices.completed.length = 31 ∧ (retiringWrite 31).notices.reservation = true ∧
      (fullOfNotices retiring).notices.completed.length = 32 ∧ (retiringWrite 31).engine.stallTimer ≠ none ∧
      retiringServed.engine.stallTimer ≠ none) := by decide +kernel

/-- 9.6 with a retirement: with one entry left RETIRED takes it and BUS_STALL sets the overflow flag (R164). -/
theorem test_abandonment_of_a_retiring_record :
    ((after .abandonment (retiringWrite 31)).notices.completed.drop 31).map Notice.body = [.retired] ∧
    (after .abandonment (retiringWrite 31)).notices.overflow = true := by decide +kernel

theorem witness_TheFreshnessCountRunsDownInLive :
    ((liveBank .deny false 0).hardReset = false ∧
      (liveBank .deny false 0).record 0 = some (record .live (.bank (bank40 .deny false 0))) ∧
      (record .live (.bank (bank40 .deny false 0))).interval ≠ 0 ∧
      (record .live (.bank (bank40 .deny false 0))).remaining ≠ 1) ∧
    (having { record .live (.bank (bank40 .deny false 0)) with remaining := 1 }).record 0 =
      some { record .live (.bank (bank40 .deny false 0)) with remaining := 1 } ∧
    (fullOfNotices (liveBank .deny false 0)).notices.completed.length = 32 ∧
    (having { record .live (.bank (bank40 .deny false 0)) with remaining := 0, stale := true }).record 0 =
      some { record .live (.bank (bank40 .deny false 0)) with remaining := 0, stale := true } ∧
    (∀ i : Slot, i.val = 48 → ∀ r, State.reset.record i = some r → r.state ≠ .live ∨ r.interval = 0) ∧
    (∀ i : Slot, i.val = 47 → ∀ r, State.reset.record i = some r → r.state ≠ .live ∨ r.interval = 0) := by
  refine ⟨by decide +kernel, by decide +kernel, by decide +kernel, by decide +kernel, ?_, ?_⟩
  · intro i hi
    omega
  · intro i _ r hr
    rw [State.record_reset] at hr
    cases hr

/-! ### The laws, in a state with a transaction open and a step that moves it -/

theorem working_steps : ∃ t, step working = .next t ∧ t.engine.sda = .data .window 0 0 :=
  ⟨after .readByteDrive { working with pending := [] },
    exec_after .readByteDrive { working with pending := [] }, by decide +kernel⟩

theorem working_engine : EngineLaw working ∧ LineLaw working := by
  have hc : working.engine.ctx = some (context .read) := by decide +kernel
  refine ⟨⟨by decide +kernel, by decide +kernel, by decide +kernel, ?_, ?_, ?_, by decide +kernel⟩, by decide +kernel, ?_, by decide +kernel, ?_, by decide +kernel⟩
  · intro c h
    rw [hc] at h
    cases h
    decide +kernel
  · intro c h _
    rw [hc] at h
    cases h
    rfl
  · intro c h hp
    rw [hc] at h
    cases h
    revert hp
    decide +kernel
  · intro stage h
    cases h
  · intro source value edges h
    cases h

theorem witness_EveryStepKeepsTheEngineLaws : EngineLaw working ∧ LineLaw working ∧ ∃ t, step working = .next t :=
  ⟨working_engine.1, working_engine.2, working_steps.imp fun _ h => h.1⟩

theorem witness_EveryStepKeepsTheNoticeQueueLaw : EngineLaw working ∧ NoticeLaw working ∧ ∃ t, step working = .next t := by
  refine ⟨working_engine.1, ?_, working_steps.imp fun _ h => h.1⟩
  unfold NoticeLaw
  decide +kernel

theorem working_blocks : BlockLaw working := by
  refine ⟨by decide +kernel, ?_, ?_, ?_, ?_⟩
  · intro i
    rw [working_blocksOf]
    split <;> decide
  · intro i k hk
    rw [working_blocksOf] at hk
    split at hk
    · revert k
      decide +kernel
    · cases hk
  · intro i j k hi hj
    rw [working_blocksOf] at hi hj
    split at hi
    · split at hj
      · rename_i h1 h2
        exact h1.trans h2.symm
      · cases hj
    · cases hi
  · intro k
    by_cases h : k ∈ working.freeBlocks
    · exact Or.inl h
    · refine Or.inr ⟨0, ?_⟩
      revert k
      decide +kernel

theorem witness_EveryStepKeepsTheBlockLaw : working.store.wf = true ∧ BlockLaw working ∧ ∃ t, step working = .next t :=
  ⟨by decide +kernel, working_blocks, working_steps.imp fun _ h => h.1⟩

theorem working_message : MessageLaw working := by
  refine ⟨by decide +kernel, ?_⟩
  intro i k hk
  rw [working_queueOf] at hk
  split at hk
  · revert k
    decide +kernel
  · cases hk

theorem working_mark : MarkLaw working := by
  intro i r m hr hm hf
  rw [working_record] at hr
  split at hr
  · cases hr
    cases hm
  · split at hr
    · cases hr
      cases hm
      cases hf
    · cases hr

theorem working_buffers : BufferLaw working ∧ ServedLaw working := by
  refine ⟨⟨by decide +kernel, ?_, ?_, ?_, ?_⟩, ?_⟩
  · intro i
    rw [working_queueOf]
    split <;> decide
  · intro i k hk
    rw [working_queueOf] at hk
    split at hk
    · revert k
      decide +kernel
    · cases hk
  · intro i j k hi hj
    rw [working_queueOf] at hi hj
    split at hi
    · split at hj
      · rename_i h1 h2
        exact h1.trans h2.symm
      · cases hj
    · cases hi
  · intro k
    by_cases h : k ∈ working.freeBuffers
    · exact Or.inl h
    · refine Or.inr ⟨1, ?_⟩
      revert k
      decide +kernel
  · intro c k hc hk
    have h : working.engine.ctx = some (context .read) := by decide +kernel
    rw [h] at hc
    cases hc
    cases hk

theorem witness_EveryStepKeepsTheBufferLaw : EngineLaw working ∧ BufferLaw working ∧ ServedLaw working ∧
    MessageLaw working ∧ MarkLaw working ∧ ∃ t, step working = .next t :=
  ⟨working_engine.1, working_buffers.1, working_buffers.2, working_message, working_mark,
    working_steps.imp fun _ h => h.1⟩

/-- A marked mailbox in an open read with a served message: the mark's law with its condition met. -/
theorem witness_marked_mailbox : MarkLaw (servedBox true) := by
  intro i r m hr _ _
  have h : (servedBox true).record i = if i = 0 then
      some (record .live (.mailbox { box true [6, 7] with headFlushed := true })) else none := having_record _ i
  rw [h] at hr
  split at hr
  · rename_i hi
    exact ⟨{ context .read with served := .message 6 }, 6, by decide +kernel, hi.symm, rfl, rfl⟩
  · cases hr

theorem working_fresh : FreshnessLaw working := by
  intro i r hr _
  rw [working_record] at hr
  split at hr
  · cases hr
    decide +kernel
  · split at hr
    · cases hr
      decide +kernel
    · cases hr

theorem witness_EveryStepKeepsTheRecordLaws : RecordLaw working ∧ OverlapLaw working ∧ FreshnessLaw working ∧
    ∃ t, step working = .next t := by
  refine ⟨?_, working_overlap, working_fresh, working_steps.imp fun _ h => h.1⟩
  intro i r hr
  rw [working_record] at hr
  split at hr
  · cases hr
    exact ⟨by decide +kernel, by decide +kernel, by decide +kernel, bank40_ranges.2.1⟩
  · split at hr
    · cases hr
      exact ⟨by decide +kernel, by decide +kernel, by decide +kernel, by
        change (box true [6]).ranges
        unfold Mailbox.ranges
        decide +kernel⟩
    · cases hr

theorem witness_EveryStepKeepsThePinLaws :
    EngineLaw working ∧ PinLaw working ∧ HoldLaw working ∧ HeldRangeLaw working ∧ ∃ t, step working = .next t := by
  have h : working.engine.ctx = some (context .read) := by decide +kernel
  refine ⟨working_engine.1, ⟨?_, ?_⟩, ?_, ?_, working_steps.imp fun _ h => h.1⟩
  · intro c hc
    rw [h] at hc
    cases hc
    exact ⟨record .live (.bank (bank40 .apply false 0)), by decide +kernel⟩
  · intro i r hr hs
    rw [working_record] at hr
    split at hr
    · cases hr
      cases hs
    · split at hr
      · cases hr
        cases hs
      · cases hr
  · unfold HoldLaw
    decide +kernel
  · intro h hh
    rw [List.mem_singleton.mp hh]
    exact ⟨by decide, by decide, record .live (.bank (bank40 .apply false 0)), bank40 .apply false 0,
      by decide +kernel, rfl, by decide +kernel⟩

/-- HELLO on LTX, and the event of its last byte waiting. -/
def helloOut : State := { after .frameStart State.reset with pending := [.frameSent] }

theorem witness_EveryStepKeepsTheLinkLaw : LinkLaw helloOut ∧ ∃ t, step helloOut = .next t := by
  refine ⟨?_, _, exec_after .frameSent { helloOut with pending := [] }⟩
  have h : helloOut.link.sending = some (.hello (helloFrame .hard)) := by decide +kernel
  unfold LinkLaw
  rw [h]
  decide +kernel

theorem witness_EveryStepKeepsWhatInstallFixed :
    (∃ t, step working = .next t) ∧ working.record 0 = some (record .live (.bank (bank40 .apply false 0))) :=
  ⟨working_steps.imp fun _ h => h.1, by decide +kernel⟩

theorem witness_APinnedBanksBytesAreLeftAlone :
    BlockLaw working ∧ working.store.wf = true ∧ exec .readByteDrive working = .next (after .readByteDrive working) ∧
    working.engine.ctx = some (context .read) ∧
    working.record 0 = some (record .live (.bank (bank40 .apply false 0))) ∧
    (after .readByteDrive working).engine.ctx = some (context .read) :=
  ⟨working_blocks, by decide +kernel, exec_after _ _, by decide +kernel, by decide +kernel, by decide +kernel⟩

end Sys2Proof.Tests
end

/-! Address sets bit by bit: membership, the stored address and intersection (R3, R28, R31). -/

namespace Sys2Proof.Machine

/-- A masked position of the stored address is 0, and the others are the supplied address's (R3). -/
theorem getLsbD_storedAddress (address mask : Address) {k : Nat} (hk : k < 7) :
    (storedAddress address mask).getLsbD k = (address.getLsbD k && !mask.getLsbD k) := by
  simp [storedAddress, hk]

/-- Membership bit by bit: `a` agrees with the address wherever the mask does not mark (R28). -/
theorem inAddressSet_iff {address mask a : Address} :
    inAddressSet address mask a = true ↔
      ∀ k, k < 7 → mask.getLsbD k = false → a.getLsbD k = address.getLsbD k := by
  have hbit {k : Nat} (hk : k < 7) :
      ((a ^^^ address) &&& ~~~mask).getLsbD k =
        ((a.getLsbD k ^^ address.getLsbD k) && !mask.getLsbD k) := by
    simp [hk]
  rw [inAddressSet, beq_iff_eq]
  constructor
  · intro hzero k hk hm
    have hxor := hbit hk
    simpa [hzero, hm] using hxor
  · intro hagree
    refine BitVec.eq_of_getLsbD_eq fun k hk => ?_
    rw [hbit hk]
    cases hm : mask.getLsbD k with
    | true => simp
    | false => simp [hagree k hk hm]

/-- Intersection is membership of one address in the set of the other under the two masks together (R31). -/
theorem setsIntersect_eq_inAddressSet (a₁ m₁ a₂ m₂ : Address) :
    setsIntersect a₁ m₁ a₂ m₂ = inAddressSet a₂ (m₁ ||| m₂) a₁ := rfl

/-- Intersection bit by bit (R31). -/
theorem setsIntersect_iff {a₁ m₁ a₂ m₂ : Address} :
    setsIntersect a₁ m₁ a₂ m₂ = true ↔
      ∀ k, k < 7 → m₁.getLsbD k = false → m₂.getLsbD k = false → a₁.getLsbD k = a₂.getLsbD k := by
  simp only [setsIntersect_eq_inAddressSet, inAddressSet_iff, BitVec.getLsbD_or, Bool.or_eq_false_iff, and_imp]

/-- An address in both sets forces the two stored addresses to agree. -/
theorem setsIntersect_of_common {a₁ m₁ a₂ m₂ a : Address} (h₁ : inAddressSet a₁ m₁ a = true)
    (h₂ : inAddressSet a₂ m₂ a = true) : setsIntersect a₁ m₁ a₂ m₂ = true :=
  setsIntersect_iff.mpr fun k hk hm₁ hm₂ =>
    calc a₁.getLsbD k = a.getLsbD k := (inAddressSet_iff.mp h₁ k hk hm₁).symm
      _ = a₂.getLsbD k := inAddressSet_iff.mp h₂ k hk hm₂

/-- Intersection does not depend on which set is named first. -/
theorem setsIntersect_symm {a₁ m₁ a₂ m₂ : Address} (h : setsIntersect a₁ m₁ a₂ m₂ = true) :
    setsIntersect a₂ m₂ a₁ m₁ = true :=
  setsIntersect_iff.mpr fun k hk hm₂ hm₁ => (setsIntersect_iff.mp h k hk hm₁ hm₂).symm

/-- The union of the stored addresses: each position takes the value of the set that does not mark it,
so it lies in both sets when they agree where neither marks. -/
def commonAddress (a₁ m₁ a₂ m₂ : Address) : Address := storedAddress a₁ m₁ ||| storedAddress a₂ m₂

theorem commonAddress_comm (a₁ m₁ a₂ m₂ : Address) :
    commonAddress a₁ m₁ a₂ m₂ = commonAddress a₂ m₂ a₁ m₁ := BitVec.or_comm _ _

theorem commonAddress_mem_left {a₁ m₁ a₂ m₂ : Address} (h : setsIntersect a₁ m₁ a₂ m₂ = true) :
    inAddressSet a₁ m₁ (commonAddress a₁ m₁ a₂ m₂) = true := by
  refine inAddressSet_iff.mpr fun k hk hm₁ => ?_
  rw [commonAddress, BitVec.getLsbD_or, getLsbD_storedAddress _ _ hk, getLsbD_storedAddress _ _ hk]
  cases hm₂ : m₂.getLsbD k with
  | true => simp [hm₁]
  | false => simp [hm₁, setsIntersect_iff.mp h k hk hm₁ hm₂]

theorem commonAddress_mem_right {a₁ m₁ a₂ m₂ : Address} (h : setsIntersect a₁ m₁ a₂ m₂ = true) :
    inAddressSet a₂ m₂ (commonAddress a₁ m₁ a₂ m₂) = true := by
  rw [commonAddress_comm]
  exact commonAddress_mem_left (setsIntersect_symm h)

/-- Two sets intersect exactly when some address is in both (R31). -/
theorem setsIntersect_iff_exists_common {a₁ m₁ a₂ m₂ : Address} :
    setsIntersect a₁ m₁ a₂ m₂ = true ↔
      ∃ a, inAddressSet a₁ m₁ a = true ∧ inAddressSet a₂ m₂ a = true :=
  ⟨fun h => ⟨_, commonAddress_mem_left h, commonAddress_mem_right h⟩,
    fun ⟨_, h₁, h₂⟩ => setsIntersect_of_common h₁ h₂⟩

/-- Storing does not change a set: only positions that the mask marks are cleared (R3, R28). -/
@[simp] theorem inAddressSet_storedAddress (address mask a : Address) :
    inAddressSet (storedAddress address mask) mask a = inAddressSet address mask a := by
  rw [Bool.eq_iff_iff, inAddressSet_iff, inAddressSet_iff]
  refine forall₃_congr fun k hk hm => ?_
  rw [getLsbD_storedAddress _ _ hk, hm, Bool.not_false, Bool.and_true]

/-- The values in masked positions do not matter to intersection (R31). -/
theorem setsIntersect_storedAddress (a₁ m₁ a₂ m₂ : Address) :
    setsIntersect (storedAddress a₁ m₁) m₁ (storedAddress a₂ m₂) m₂ = setsIntersect a₁ m₁ a₂ m₂ := by
  rw [Bool.eq_iff_iff, setsIntersect_iff_exists_common, setsIntersect_iff_exists_common]
  simp only [inAddressSet_storedAddress]

/-- Settles O31: intersection is a common address, is agreement where neither mask marks, and is the same
for the stored addresses as for the supplied ones. -/
theorem setsIntersectWhereNeitherMaskMarks : Obligations.SetsIntersectWhereNeitherMaskMarks :=
  fun a₁ m₁ a₂ m₂ =>
    ⟨setsIntersect_iff_exists_common, setsIntersect_iff, setsIntersect_storedAddress a₁ m₁ a₂ m₂⟩

end Sys2Proof.Machine

/-! The checks that the commands naming a slot make, one equation per outcome (R11, R51, R55), and what a
command answers once its effect is known. -/

namespace Sys2Proof.Machine

variable {s : State} {c : Command} {f : Frame} {i : Slot} {r : Record}

/-- The length is checked before anything else (R188). -/
theorem exec_of_badLength (hc : c ≠ .reset) (ht : Takeable s f) (hf : Fresh s f) (hcode : f.code = commandCode c)
    (hl : lengthAllowed c f.payload.length = false) :
    exec (commandInstr c) s = .next { s with link := answered s.link f (badLengthReply c) } := by
  rw [exec_commandInstr hc, event_of_running ht.1, State.runCommand_badLength ht hf hcode hl]

/-- The effect is worked out in the state without the frame taken, where only the link differs. -/
theorem exec_of_commandEffect (hc : c ≠ .reset) (h : Takes s c f) {t : State} {reply : List Byte}
    (he : commandEffect c f.payload s.dropHead = (t, reply)) :
    exec (commandInstr c) s = .next { t with link := answered s.link f reply } := by
  rw [exec_takes_eq hc h, he]

theorem withSlot_of_badSlot {p : List Byte} (h : 48 ≤ (byteAt p 0).toNat) (effect : Slot → Reply) :
    withSlot p s effect = s.reply .badSlot := by
  rw [withSlot, slotOf_eq_none.2 h]

theorem withSlot_of_slot {p : List Byte} (h : (byteAt p 0).toNat = i.val) (effect : Slot → Reply) :
    withSlot p s effect = effect i := by
  rw [withSlot, slotOf_eq_some.2 h]

theorem withUsable_of_usable (h : s.record i = some r) (hr : r.state ≠ .retiring)
    (effect : Record → Reply) : withUsable s i effect = effect r := by
  simp only [withUsable, h, if_neg hr]

theorem withRecord_of_free (h : s.record i = none) (effect : Record → Reply) :
    withRecord s i effect = s.reply .badState := by
  rw [withRecord, h]

theorem withRecord_of_record (h : s.record i = some r) (effect : Record → Reply) :
    withRecord s i effect = effect r := by
  rw [withRecord, h]

theorem withBank_of_bank {b : Bank} (h : r.content = .bank b) (effect : Bank → Reply) :
    withBank s r effect = effect b := by
  rw [withBank, h]

theorem withBank_of_mailbox {m : Mailbox} (h : r.content = .mailbox m) (effect : Bank → Reply) :
    withBank s r effect = s.reply .wrongKind := by
  rw [withBank, h]

end Sys2Proof.Machine

/-! LOAD to a bank that is not pinned: one write of the window, and the refresh (R52). -/

namespace Sys2Proof.Machine

/-- The window lies within the blocks that the bank's size needs (R46). -/
theorem Bank.ranges.lt_of_lt_size {b : Bank} (h : b.ranges) {p : Nat} (hp : p < b.size) :
    p < 16 * b.blocks.length := by
  obtain ⟨-, -, hblocks, -⟩ := h
  omega

variable {s : State} {i : Slot} {r : Record} {b : Bank}

/-- Without a pin the bytes are written at once (R52, R124). -/
theorem State.loadBank_of_unpinned (h : s.pinned i = false) (b : Bank) (offset : Nat) (data : List Byte)
    (now later : Status) :
    s.loadBank i b offset data now later = ((s.writeWindow b offset data).refresh i).reply now := by
  simp [State.loadBank, h]

/-- A refresh after a window write, as one update of the state (R52, R153). -/
theorem State.refresh_writeWindow (h : s.record i = some r) (b : Bank) (offset : Nat) (data : List Byte) :
    (s.writeWindow b offset data).refresh i = { s with
      store := windowWrite s.store b.blocks offset data
      table := s.table.set i.val (some r.reload) i.isLt } := by
  have hr : (s.writeWindow b offset data).record i = some r := h
  rw [State.refresh_eq, hr]
  rfl

/-- LOAD's checks down to the range leave the load itself (R51). -/
theorem loadEffect_of_inRange {p : List Byte} (hi : (byteAt p 0).toNat = i.val) (hr : s.record i = some r)
    (hs : r.state ≠ .retiring) (hb : r.content = .bank b)
    (hrange : (byteAt p 1).toNat + (p.drop 2).length ≤ b.size) :
    loadEffect p s = s.loadBank i b (byteAt p 1).toNat (p.drop 2) .ok .held := by
  rw [loadEffect, withSlot_of_slot hi, withUsable_of_usable hr hs, withBank_of_bank hb,
    if_neg (Nat.not_lt.2 hrange)]

/-- Past its checks and without a pin, LOAD writes the window, reloads the record and answers OK (R52). -/
theorem loadEffect_of_unpinned {p : List Byte} (hi : (byteAt p 0).toNat = i.val) (hr : s.record i = some r)
    (hs : r.state ≠ .retiring) (hb : r.content = .bank b)
    (hrange : (byteAt p 1).toNat + (p.drop 2).length ≤ b.size) (hpin : s.pinned i = false) :
    loadEffect p s = State.reply { s with
      store := windowWrite s.store b.blocks (byteAt p 1).toNat (p.drop 2)
      table := s.table.set i.val (some r.reload) i.isLt } .ok := by
  rw [loadEffect_of_inRange hi hr hs hb hrange, State.loadBank_of_unpinned hpin, State.refresh_writeWindow hr]

/-- Settles O19: the next state by LOAD's effect, the store's bytes by the laws of the window write. -/
theorem loadWritesTheWindowAtOnce : Obligations.LoadWritesTheWindowAtOnce := by
  rintro s f i r b _ _ htakes hi hr hs hb rfl rfl hrange hpin hwf hranges hnodup
  exact ⟨windowWrite s.store b.blocks _ _,
    exec_of_commandEffect (c := .load) (by decide) htakes (loadEffect_of_unpinned hi hr hs hb hrange hpin),
    windowWrite_wf hwf _ _ _,
    fun p hp => windowByte_windowWrite hwf hnodup _ _ p (hranges.lt_of_lt_size hp),
    memRead_windowWrite_other hwf _ _ _⟩

end Sys2Proof.Machine

/-! READ: its checks in order, and the bytes as they stand (R55). -/

namespace Sys2Proof.Machine

variable {s : State} {i : Slot} {r : Record} {slot offset count : Byte}

theorem readEffect_of_badSlot (hslot : 48 ≤ slot.toNat) :
    readEffect [slot, offset, count] s = s.reply .badSlot :=
  withSlot_of_badSlot (p := [slot, offset, count]) hslot _

/-- With a slot that exists, the count is checked before the record (R55). -/
theorem readEffect_of_slot (hslot : slot.toNat = i.val) :
    readEffect [slot, offset, count] s =
      if count = 0 ∨ 48 < count.toNat then s.reply .badParam
      else withRecord s i fun r => withBank s r fun b =>
        if b.size < offset.toNat + count.toNat then s.reply .outOfRange
        else s.replyOk (windowRead s.store b.blocks offset.toNat count.toNat) :=
  withSlot_of_slot (p := [slot, offset, count]) hslot _

theorem readEffect_of_badCount (hslot : slot.toNat = i.val) (hcount : count = 0 ∨ 48 < count.toNat) :
    readEffect [slot, offset, count] s = s.reply .badParam := by
  rw [readEffect_of_slot hslot, if_pos hcount]

section PastTheCount

variable (hslot : slot.toNat = i.val) (hcount : 1 ≤ count.toNat ∧ count.toNat ≤ 48)
include hslot hcount

/-- With a slot and a count that pass, the record decides (R55). -/
theorem readEffect_of_count :
    readEffect [slot, offset, count] s =
      withRecord s i fun r => withBank s r fun b =>
        if b.size < offset.toNat + count.toNat then s.reply .outOfRange
        else s.replyOk (windowRead s.store b.blocks offset.toNat count.toNat) := by
  have hpass : ¬(count = 0 ∨ 48 < count.toNat) := by
    rintro (rfl | hlt)
    · exact absurd hcount.1 (by decide)
    · omega
  rw [readEffect_of_slot hslot, if_neg hpass]

theorem readEffect_of_free (hr : s.record i = none) :
    readEffect [slot, offset, count] s = s.reply .badState := by
  rw [readEffect_of_count hslot hcount, withRecord_of_free hr]

theorem readEffect_of_mailbox (hr : s.record i = some r) {m : Mailbox} (hm : r.content = .mailbox m) :
    readEffect [slot, offset, count] s = s.reply .wrongKind := by
  rw [readEffect_of_count hslot hcount, withRecord_of_record hr, withBank_of_mailbox hm]

theorem readEffect_of_outOfRange (hr : s.record i = some r) {b : Bank} (hb : r.content = .bank b)
    (hrange : b.size < offset.toNat + count.toNat) :
    readEffect [slot, offset, count] s = s.reply .outOfRange := by
  rw [readEffect_of_count hslot hcount, withRecord_of_record hr, withBank_of_bank hb, if_pos hrange]

theorem readEffect_of_inRange (hr : s.record i = some r) {b : Bank} (hb : r.content = .bank b)
    (hrange : offset.toNat + count.toNat ≤ b.size) :
    readEffect [slot, offset, count] s =
      s.replyOk (windowRead s.store b.blocks offset.toNat count.toNat) := by
  rw [readEffect_of_count hslot hcount, withRecord_of_record hr, withBank_of_bank hb, if_neg (Nat.not_lt.2 hrange)]

end PastTheCount

/-- An effect of READ that only answers changes nothing but the link. -/
theorem exec_read_of_answer {f : Frame} {p reply : List Byte} (h : Takes s .read f) (hp : f.payload = p)
    (he : readEffect p s.dropHead = (s.dropHead, reply)) :
    exec .read s = .next { s with link := answered s.link f reply } :=
  exec_of_commandEffect (c := .read) (t := s.dropHead) (by decide) h (hp ▸ he)

/-- Settles O21: the length by the generic check, every other outcome by READ's effect for it. -/
theorem readAnswersTheStoreBytes : Obligations.ReadAnswersTheStoreBytes := by
  constructor
  · intro s f htake hfresh hcode hlen
    exact exec_of_badLength (c := .read) (by decide) htake hfresh hcode (beq_false_of_ne hlen)
  · intro s f slot offset count htakes hp
    refine ⟨fun hslot => ?badSlot, fun i hslot => ⟨fun hcount => ?badCount, fun hcount => ⟨fun hr => ?free,
      fun r hr => ⟨fun m hm => ?mailbox, fun b hb hrange => ?outOfRange, fun b hb hrange => ?inRange⟩⟩⟩⟩
    case badSlot => exact exec_read_of_answer htakes hp (readEffect_of_badSlot hslot)
    case badCount => exact exec_read_of_answer htakes hp (readEffect_of_badCount hslot hcount)
    case free => exact exec_read_of_answer htakes hp (readEffect_of_free hslot hcount hr)
    case mailbox => exact exec_read_of_answer htakes hp (readEffect_of_mailbox hslot hcount hr hm)
    case outOfRange => exact exec_read_of_answer htakes hp (readEffect_of_outOfRange hslot hcount hr hb hrange)
    case inRange =>
      exact exec_read_of_answer htakes hp
        (readEffect_of_inRange (s := s.dropHead) hslot hcount hr hb hrange)

end Sys2Proof.Machine

/-! The bytes and edges of the served bus outside the phases that take them: they change nothing (R73). -/

namespace Sys2Proof.Machine

variable {s : State}

/-- An event without an effect in `s` leaves it, in the hardware reset as outside it. -/
theorem exec_of_effectOf_eq_self {i : Instr} (h : effectOf i s = s) : exec i s = .next s := by
  rw [exec_eq, h, ite_self]

theorem State.openBank_of_phase_ne {p : Phase} (h : s.engine.phase ≠ p) : s.openBank p = none := if_neg h

theorem State.openMailbox_of_phase_ne {p : Phase} (h : s.engine.phase ≠ p) : s.openMailbox p = none := if_neg h

theorem State.addressByte_of_phase_ne (h : s.engine.phase ≠ .address) (value : Byte) : s.addressByte value = s :=
  if_neg h

theorem State.pointerByte_of_phase_ne (h : s.engine.phase ≠ .pointer) (value : Byte) : s.pointerByte value = s := by
  rw [State.pointerByte, State.openBank_of_phase_ne h]

theorem State.bankWriteByte_of_phase_ne (h : s.engine.phase ≠ .write) (value : Byte) : s.bankWriteByte value = s := by
  rw [State.bankWriteByte, State.openBank_of_phase_ne h]

theorem State.mailboxWriteByte_of_phase_ne (h : s.engine.phase ≠ .write) (value : Byte) :
    s.mailboxWriteByte value = s := by
  rw [State.mailboxWriteByte, State.openMailbox_of_phase_ne h]

theorem State.readByteDrive_of_phase_ne (h : s.engine.phase ≠ .read) : s.readByteDrive = s := by
  rw [State.readByteDrive, State.openBank_of_phase_ne h, State.openMailbox_of_phase_ne h, ite_self]

theorem State.readByteAcknowledge_of_phase_ne (h : s.engine.phase ≠ .read) (ack : Bool) :
    s.readByteAcknowledge ack = s := if_neg h

theorem State.sclEdge_of_unsupervised (hopen : phaseSupervised s.engine.phase = false)
    (hhold : s.engine.phase ≠ .hold) (edge : Edge) : s.sclEdge edge = s := by
  rw [State.sclEdge, hopen, if_neg Bool.false_ne_true, if_neg hhold]

end Sys2Proof.Machine

/-! ATTACH: the engine it leaves, and the answer (R92). -/

namespace Sys2Proof.Machine

variable {e : Engine} {s : State} {f : Frame}

theorem Engine.attach_of_detached (h : e.phase = .detached) : e.attach = { e with phase := .listen } := if_pos h

theorem Engine.attach_of_attached (h : e.phase ≠ .detached) : e.attach = { e with detaching := false } := if_neg h

/-- An attached engine without the mark has none to lose. -/
theorem Engine.attach_of_unmarked (h : e.phase ≠ .detached) (hmark : e.detaching = false) : e.attach = e := by
  rw [Engine.attach_of_attached h, ← hmark]

/-- ATTACH changes the engine and answers OK (R92). -/
theorem exec_attach_of_takes (h : Takes s .attach f) :
    exec .attach s = .next { s with engine := s.engine.attach, link := answered s.link f [0x00] } :=
  exec_of_commandEffect (c := .attach) (t := { s.dropHead with engine := s.engine.attach }) (by decide) h rfl

/-- ATTACH allows no payload (R92, R189). -/
theorem lengthAllowed_attach {p : List Byte} (h : p ≠ []) : lengthAllowed .attach p.length = false :=
  beq_false_of_ne (mt List.eq_nil_of_length_eq_zero h)

/-- Settles O11: the length by the generic check, the engine by its equations under ATTACH, and LISTEN as a
phase that takes no byte and no edge. -/
theorem attachEntersListenOrClearsTheMark : Obligations.AttachEntersListenOrClearsTheMark := by
  refine ⟨fun s f htake hfresh hcode hpayload => ?badLength, fun s f htakes => ?taken,
    fun s v ack e hlisten => ?listen⟩
  case badLength =>
    exact exec_of_badLength (c := .attach) (by decide) htake hfresh hcode (lengthAllowed_attach hpayload)
  case taken =>
    rw [exec_attach_of_takes htakes]
    refine ⟨fun hdetached => ?_, fun hattached _ => ?_, fun hattached hmark => ?_⟩
    · rw [Engine.attach_of_detached hdetached]
    · rw [Engine.attach_of_attached hattached]
    · rw [Engine.attach_of_unmarked hattached hmark]
  case listen =>
    have hne {p : Phase} (hp : Phase.listen ≠ p) : s.engine.phase ≠ p := hlisten ▸ hp
    have hunsupervised : phaseSupervised s.engine.phase = false := by rw [hlisten]; rfl
    exact ⟨exec_of_effectOf_eq_self (State.addressByte_of_phase_ne (hne (by decide)) v),
      exec_of_effectOf_eq_self (State.pointerByte_of_phase_ne (hne (by decide)) v),
      exec_of_effectOf_eq_self (State.bankWriteByte_of_phase_ne (hne (by decide)) v),
      exec_of_effectOf_eq_self (State.mailboxWriteByte_of_phase_ne (hne (by decide)) v),
      exec_of_effectOf_eq_self (State.readByteDrive_of_phase_ne (hne (by decide))),
      exec_of_effectOf_eq_self (State.readByteAcknowledge_of_phase_ne (hne (by decide)) ack),
      exec_of_effectOf_eq_self (State.sclEdge_of_unsupervised hunsupervised (hne (by decide)) e)⟩

end Sys2Proof.Machine

/-! TOUCH: its checks in order, and the refresh, which an unsupervised record does not feel (R154). -/

namespace Sys2Proof.Machine

variable {s : State} {f : Frame} {i : Slot} {r : Record} {p : List Byte}

/-- An unsupervised record in its ranges has count 0 and is not stale, which is what a reload gives it (R151, R153). -/
theorem Record.reload_of_unsupervised (h : r.interval = 0) (hranges : r.ranges) : r.reload = r := by
  obtain ⟨-, hcount, hstale, -⟩ := hranges
  have hremaining : r.remaining = r.interval := by bv_omega
  exact congrArg₂ (fun count mark => { r with remaining := count, stale := mark }) hremaining.symm (hstale h).symm

/-- A table is not changed by setting a slot to the record it already holds. -/
theorem State.table_set_of_record {o : Option Record} (h : s.record i = o) :
    s.table.set i.val o i.isLt = s.table := by
  subst h
  exact Vector.set_getElem_self i.isLt

theorem withUsable_of_free (h : s.record i = none) (effect : Record → Reply) :
    withUsable s i effect = s.reply .badState := by
  rw [withUsable, h]

theorem withUsable_of_retiring (h : s.record i = some r) (hr : r.state = .retiring)
    (effect : Record → Reply) : withUsable s i effect = s.reply .badState := by
  simp only [withUsable, h, if_pos hr]

theorem touchEffect_of_badSlot (hi : 48 ≤ (byteAt p 0).toNat) : touchEffect p s = s.reply .badSlot :=
  withSlot_of_badSlot hi _

theorem touchEffect_of_free (hi : (byteAt p 0).toNat = i.val) (hr : s.record i = none) :
    touchEffect p s = s.reply .badState := by
  rw [touchEffect, withSlot_of_slot hi, withUsable_of_free hr]

theorem touchEffect_of_retiring (hi : (byteAt p 0).toNat = i.val) (hr : s.record i = some r)
    (hs : r.state = .retiring) : touchEffect p s = s.reply .badState := by
  rw [touchEffect, withSlot_of_slot hi, withUsable_of_retiring hr hs]

/-- A STAGED, LIVE or QUIESCED record is reloaded, whatever its kind and whether or not it is pinned (R154). -/
theorem touchEffect_of_usable (hi : (byteAt p 0).toNat = i.val) (hr : s.record i = some r)
    (hs : r.state ≠ .retiring) :
    touchEffect p s = State.reply { s with table := s.table.set i.val (some r.reload) i.isLt } .ok := by
  rw [touchEffect, withSlot_of_slot hi, withUsable_of_usable hr hs, State.refresh_eq, hr, Option.map_some]

/-- A refusal by TOUCH's effect changes nothing but the link. -/
theorem exec_touch_of_refusal {status : Status} (h : Takes s .touch f)
    (he : touchEffect f.payload s.dropHead = s.dropHead.reply status) :
    exec .touch s = .next { s with link := answered s.link f [statusByte status] } :=
  exec_of_commandEffect (c := .touch) (t := s.dropHead) (by decide) h he

/-- TOUCH reloads the record and answers OK (R154). -/
theorem exec_touch_of_usable (h : Takes s .touch f) (hi : Names f i) (hr : s.record i = some r)
    (hs : r.state ≠ .retiring) :
    exec .touch s = .next { s with
      table := s.table.set i.val (some r.reload) i.isLt, link := answered s.link f [0x00] } :=
  exec_of_commandEffect (c := .touch) (by decide) h (touchEffect_of_usable (s := s.dropHead) hi hr hs)

/-- Settles O18: the length by the generic check, the refusals by TOUCH's effect for each, and the
unsupervised record as one that its own reload does not change. -/
theorem touchRefreshes : Obligations.TouchRefreshes := by
  refine ⟨fun s f htake hfresh hcode hlen => ?badLength, fun s f htakes hslot => ?badSlot,
    fun s f i htakes hi => ⟨fun hr => ?free, fun r hr =>
      ⟨fun hs => ?retiring, fun hs => ?usable, fun hs hinterval hranges => ?unsupervised⟩⟩⟩
  case badLength => exact exec_of_badLength (c := .touch) (by decide) htake hfresh hcode (beq_false_of_ne hlen)
  case badSlot => exact exec_touch_of_refusal htakes (touchEffect_of_badSlot hslot)
  case free => exact exec_touch_of_refusal htakes (touchEffect_of_free hi hr)
  case retiring => exact exec_touch_of_refusal htakes (touchEffect_of_retiring hi hr hs)
  case usable => exact exec_touch_of_usable htakes hi hr hs
  case unsupervised =>
    rw [exec_touch_of_usable htakes hi hr hs, Record.reload_of_unsupervised hinterval hranges,
      State.table_set_of_record hr]

end Sys2Proof.Machine

/-! What a command or event can do to the part outside its link, as one list: a law of the records, the store, the
pools, the Notice Queue or the pin passes over every step once it passes over each entry. -/

namespace Sys2Proof.Machine

/-! ## Laws that the link does not enter -/

/-- `u` is `t` but for the link, the counters, the limits, the rate, the reset's mark and the queue of events. -/
inductive SameBody (t : State) : State → Prop
  | intro (pending : List Instr) (hardReset : Bool) (baud : Baud) (link : Link) (counters : Counters)
      (holdLimit stallLimit : Byte) :
      SameBody t { t with
        pending := pending, hardReset := hardReset, baud := baud, link := link, counters := counters
        holdLimit := holdLimit, stallLimit := stallLimit }

theorem SameBody.refl (t : State) : SameBody t t := .intro _ _ _ _ _ _ _

/-- A law that holds or fails by the records, the store, the pools, the Notice Queue and the engine alone. -/
def OfBody (P : State → Prop) : Prop := ∀ s u, SameBody s u → P s → P u

theorem OfBody.and {P Q : State → Prop} (hP : OfBody P) (hQ : OfBody Q) : OfBody fun s => P s ∧ Q s :=
  fun s u h hs => ⟨hP s u h hs.1, hQ s u h hs.2⟩

/-! ## What can happen to a record, a context and the Notice Queue -/

/-- What an event other than one of the Mailbox Unit can do to a record that stays. -/
inductive RecordMove (s : State) (j : Slot) (r : Record) : Record → Prop
  | reload (h : r.state ≠ .retiring) : RecordMove s j r r.reload
  | activate (h : r.state = .staged) : RecordMove s j r { r.reload with state := .live }
  | quiesce (h : r.state = .live) : RecordMove s j r { r with state := .quiesced }
  | resume (h : r.state = .quiesced) : RecordMove s j r { r.reload with state := .live }
  | retire (h : r.state ≠ .retiring) (hp : s.pinned j = true) (hh : s.engine.phase ≠ .hold) :
      RecordMove s j r { r with state := .retiring }
  | tick (h : r.counting = true) (h1 : r.remaining ≠ 1) : RecordMove s j r { r with remaining := r.remaining - 1 }
  | expire (h : r.interval ≠ 0) : RecordMove s j r { r with remaining := 0, stale := true }
  | point (b : Bank) (p : Nat) (hb : r.content = .bank b) (hp : p ≤ b.size) :
      RecordMove s j r { r with content := .bank { b with pointer := p } }

/-- The Notice Queue was left alone, or one event notice asked for an entry (R138). -/
def Raised (p q : NoticeQueue) : Prop := q = p ∨ ∃ n : Notice, n.isData = false ∧ q = p.raise n

theorem Raised.refl (p : NoticeQueue) : Raised p p := Or.inl rfl

theorem Raised.raise (p : NoticeQueue) {n : Notice} (h : n.isData = false) : Raised p (p.raise n) :=
  Or.inr ⟨n, h, rfl⟩

/-- The completed notices stay or lose their head, the reservation stays, and the credit keeps its bound (R143 to R145). -/
structure Metered (p q : NoticeQueue) : Prop where
  completed : q.completed = p.completed ∨ q.completed = p.completed.tail
  reservation : q.reservation = p.reservation
  credit : q.credit ≤ 16 ∨ q.credit ≤ p.credit

/-- What an event that keeps the pin can do to the context, as far as the other parts of the device are concerned. -/
structure ContextMove (s : State) (c d : Context) : Prop where
  slot : d.slot = c.slot
  direction : d.direction = c.direction
  reserved : d.reserved = c.reserved
  served : d.served = c.served ∨
    (c.served = .unfixed ∧ s.engine.phase = .read ∧ ∀ k, d.served = .message k → (s.queueOf c.slot).head? = some k)

/-- The context of the pinned bank moves, and the engine enters no hold. -/
structure Continues (s : State) (c : Context) (e : Engine) (d : Context) : Prop where
  ctx : s.engine.ctx = some c
  next : e.ctx = some d
  move : ContextMove s c d
  phase : e.phase ≠ .hold

/-! ## The list -/

/-- Everything an event `i` can do to the part outside its link: each entry with the conditions under which it
happens. -/
inductive Change (i : Instr) (s : State) : State → Prop
  /-- Nothing. -/
  | idle : Change i s s
  /-- A reset clears every block. -/
  | clear : Change i s s.clearBlocks
  /-- The credit, the flags and the head of the Notice Queue. -/
  | meter (q : NoticeQueue) (hq : Metered s.notices q) : Change i s { s with notices := q }
  /-- A notice leaves and an open SPACE hold is granted (R126). -/
  | grant (c : Context) (r : Record) (p q : NoticeQueue) (e : Engine)
      (hc : s.engine.ctx = some c) (hr : s.record c.slot = some r) (hh : s.engine.phase = .hold)
      (hreason : c.holdReason = some .space) (hp : Metered s.notices p) (hcan : p.canReserve = true)
      (hq : Metered p.reserve q) (hsame : q.completed = p.completed)
      (he : e.ctx = some { c with holdReason := none, reserved := true }) (hphase : e.phase ≠ .hold) :
      Change i s { s with notices := q, engine := e }
  /-- The engine moves and keeps its context; a fetch that finds no entry raises its notice on the way. -/
  | engine (e : Engine) (q : NoticeQueue) (hctx : e.ctx = s.engine.ctx)
      (hphase : e.phase = .hold → s.engine.phase = .hold) (hq : Raised s.notices q) :
      Change i s { s with notices := q, engine := e }
  /-- An address byte pins an endpoint (R75). -/
  | pin (j : Slot) (r : Record) (d : Direction) (reason : Option HoldReason) (reserved : Bool) (e : Engine)
      (q : NoticeQueue) (hphase : s.engine.phase = .address) (hr : s.record j = some r)
      (hlive : r.state = .live) (he : e.ctx = some (newContext j r d reason reserved))
      (hq : (reserved = true ∧ s.notices.canReserve = true ∧ q = s.notices.reserve) ∨
        (reserved = false ∧ Raised s.notices q)) :
      Change i s { s with notices := q, engine := e }
  /-- The context of the open transaction moves, and nothing else does. -/
  | context (c d : Context) (e : Engine) (h : Continues s c e d) : Change i s { s with engine := e }
  /-- The context moves and the bus pointer with it. -/
  | point (c d : Context) (e : Engine) (r : Record) (b : Bank) (p : Nat) (h : Continues s c e d)
      (hr : s.record c.slot = some r) (hb : r.content = .bank b) (hp : p ≤ b.size) :
      Change i s { s.setContent c.slot r (.bank { b with pointer := p }) with engine := e }
  /-- A data byte under APPLY is written at the bus pointer (R86). -/
  | apply (v : Byte) (c d : Context) (e : Engine) (r : Record) (b : Bank) (h : Continues s c e d)
      (hi : i = .bankWriteByte v) (hr : s.record c.slot = some r) (hb : r.content = .bank b)
      (hpolicy : b.policy = .apply) (hp : b.pointer < b.size) :
      Change i s { s.setContent c.slot r (.bank { b with pointer := b.pointer + 1 }) with
        store := windowWrite s.store b.blocks b.pointer [v], engine := e }
  /-- A record moves by itself; an expiry raises its notice. -/
  | record (j : Slot) (r r' : Record) (q : NoticeQueue) (hr : s.record j = some r) (hm : RecordMove s j r r')
      (hq : Raised s.notices q) : Change i s { s.setRecord j (some r') with notices := q }
  /-- A LOAD to a pinned bank is held (R53). -/
  | keepLoad (j : Slot) (r : Record) (b : Bank) (offset : Nat) (data : List Byte) (hr : s.record j = some r)
      (hs : r.state ≠ .retiring) (hb : r.content = .bank b) (h1 : 1 ≤ data.length) (h48 : data.length ≤ 48)
      (hrange : offset + data.length ≤ b.size) (hp : s.pinned j = true) (hroom : s.updateHold.length < 4) :
      Change i s { s.setRecord j (some r.reload) with
        updateHold := s.updateHold ++ [{ slot := j, offset := offset, data := data }] }
  /-- A LOAD to a bank that is not pinned is written (R52). -/
  | load (j : Slot) (r : Record) (b : Bank) (offset : Nat) (data : List Byte) (hr : s.record j = some r)
      (hs : r.state ≠ .retiring) (hb : r.content = .bank b) (hp : s.pinned j = false) :
      Change i s { s.setRecord j (some r.reload) with store := windowWrite s.store b.blocks offset data }
  /-- A FILL answers the FETCH hold of its bank (R123). -/
  | fetch (c d : Context) (e : Engine) (r : Record) (b : Bank) (offset : Nat) (data : List Byte)
      (h : Continues s c e d) (hi : i = .fill) (hr : s.record c.slot = some r) (hs : r.state ≠ .retiring)
      (hb : r.content = .bank b) :
      Change i s { s.setRecord c.slot (some r.reload) with
        store := windowWrite s.store b.blocks offset data, engine := e }
  /-- A message is posted (R102). -/
  | post (j : Slot) (r : Record) (m : Mailbox) (k : BufferNo) (rest : List BufferNo) (msg : List Byte)
      (hr : s.record j = some r) (hs : r.state ≠ .retiring) (hm : r.content = .mailbox m)
      (hroom : m.queue.length < m.depth) (hfree : s.freeBuffers = k :: rest) (h1 : 1 ≤ msg.length)
      (h32 : msg.length ≤ 32) : Change i s (s.postMessage j r m k rest msg)
  /-- A queue is flushed (R111). -/
  | flushAll (j : Slot) (r : Record) (m : Mailbox) (hr : s.record j = some r) (hm : r.content = .mailbox m)
      (hn : s.servedMessage j = none) : Change i s (s.flushAll j r m)
  /-- A queue is flushed around its served message (R112). -/
  | flushAround (j : Slot) (r : Record) (m : Mailbox) (k : BufferNo) (hr : s.record j = some r)
      (hm : r.content = .mailbox m) (hk : s.servedMessage j = some k) : Change i s (s.flushAround j r m k)
  /-- A slot is filled (R16). -/
  | install (j : Slot) (q : InstallFields) (h : installCheck s q = .ok j) : Change i s (s.installAt j q)
  /-- A record that is not pinned is freed (R21). -/
  | free (j : Slot) (hp : s.pinned j = false) : Change i s (s.freeRecord j)
  /-- A transaction ends; an expiry or an abandonment raises its notice (R77). -/
  | finish (cause : EndCause) (c : Context) (q : NoticeQueue) (hc : s.engine.ctx = some c) (hcause : cause ≠ .retire)
      (hq : Raised (s.endTransaction cause).notices q) : Change i s { s.endTransaction cause with notices := q }
  /-- RETIRE ends a hold and frees the record (R23). -/
  | finishRetire (c : Context) (r : Record) (hc : s.engine.ctx = some c) (hr : s.record c.slot = some r)
      (hs : r.state ≠ .retiring) (hh : s.engine.phase = .hold) :
      Change i s ((s.endTransaction .retire).freeRecord c.slot)

/-- The event `i` changes `s` into `t` by an entry of the list, but for the link. -/
def Changes (i : Instr) (s t : State) : Prop := ∃ s' t', SameBody s s' ∧ Change i s' t' ∧ SameBody t' t

theorem Change.changes {i : Instr} {s t : State} (h : Change i s t) : Changes i s t :=
  ⟨s, t, .refl s, h, .refl t⟩

end Sys2Proof.Machine

/-! Every command and event changes the part by an entry of the list, and the rule by which a law passes over a step. -/

namespace Sys2Proof.Machine

/-! ## Frames as changes -/

theorem changes_of_sameBody {i : Instr} {s u : State} (h : SameBody s u) : Changes i s u := ⟨s, s, .refl s, .idle, h⟩

/-- What an event does to the link at its end does not matter. -/
theorem Changes.then_sameBody {i : Instr} {s t u : State} (h : Changes i s t) (hu : SameBody t u) : Changes i s u := by
  obtain ⟨s', t', hs, hc, ht⟩ := h
  cases ht
  cases hu
  exact ⟨s', t', hs, hc, .intro _ _ _ _ _ _ _⟩

/-- What an event does to the link at its beginning does not matter. -/
theorem Changes.of_sameBody {i : Instr} {s s₁ t : State} (hs : SameBody s s₁) (h : Changes i s₁ t) :
    Changes i s t := by
  obtain ⟨s', t', hs', hc, ht⟩ := h
  cases hs
  cases hs'
  exact ⟨_, t', .intro _ _ _ _ _ _ _, hc, ht⟩

theorem changes_of_eq {i : Instr} {s t : State} (h : t = s) : Changes i s t := by
  rw [h]
  exact changes_of_sameBody (.refl s)

/-- A command changes the part as its effect does, for payloads of an allowed length. -/
theorem runCommand_changes {i : Instr} {c : Command} {effect : List Byte → State → Reply}
    (h : ∀ p s, lengthAllowed c p.length = true → Changes i s (effect p s).1) (s : State) :
    Changes i s (s.runCommand c effect) := by
  rcases s.runCommand_cases c effect with ⟨hrun, -⟩ | ⟨f, -, -, -, -, hrun⟩ | ⟨f, -, -, -, hlen, hrun⟩ <;> rw [hrun]
  · exact changes_of_sameBody (.refl s)
  · exact changes_of_sameBody (.intro _ _ _ _ _ _ _)
  · exact ((h f.payload s.dropHead hlen).of_sameBody (.intro _ _ _ _ _ _ _)).then_sameBody (.intro _ _ _ _ _ _ _)

/-! ## The pin and the end of a transaction -/

theorem State.pinned_iff {s : State} {j : Slot} : s.pinned j = true ↔ ∃ c, s.engine.ctx = some c ∧ c.slot = j := by
  unfold State.pinned
  cases s.engine.ctx <;> simp

/-- No end of a transaction enters a hold (R78). -/
theorem Engine.afterEnd_phase_ne_hold (e : Engine) (cause : EndCause) : (e.afterEnd cause).phase ≠ .hold := by
  cases cause <;> simp only [Engine.afterEnd, ne_eq]
  case stop | abandonment => split <;> exact Phase.noConfusion
  all_goals exact Phase.noConfusion

/-- The end of a transaction keeps a context only if there was none (R77). -/
theorem Engine.afterEnd_ctx (e : Engine) (cause : EndCause) : (e.afterEnd cause).ctx = e.ctx := by
  cases cause <;> simp only [Engine.afterEnd]
  case stop | abandonment => split <;> rfl

/-- An end of a transaction with the notice of its cause, whether or not an endpoint was pinned. -/
theorem change_endTransaction {i : Instr} {s : State} {cause : EndCause} (hcause : cause ≠ .retire) {q : NoticeQueue}
    (hq : Raised (s.endTransaction cause).notices q) : Change i s { s.endTransaction cause with notices := q } := by
  cases hc : s.engine.ctx with
  | some c => exact .finish cause c q hc hcause hq
  | none =>
    rw [State.endTransaction, State.unpin_none hc] at hq ⊢
    exact .engine _ q (s.engine.afterEnd_ctx cause) (fun h => absurd h (s.engine.afterEnd_phase_ne_hold cause)) hq

theorem State.refresh_of_record {s : State} {j : Slot} {r : Record} (h : s.record j = some r) :
    s.refresh j = s.setRecord j (some r.reload) := by
  rw [State.refresh, h]

/-! ## The commands -/

section Commands

variable {i : Instr} {p : List Byte} {s : State}

theorem statusEffect_changes : Changes i s (statusEffect p s).1 := by
  rcases statusEffect_cases p s with h | h <;> rw [h]
  · exact changes_of_eq rfl
  · exact changes_of_sameBody (.intro _ _ _ _ _ _ _)

theorem holdLimitEffect_changes : Changes i s (holdLimitEffect p s).1 := by
  rcases holdLimitEffect_cases p s with h | ⟨-, h⟩ <;> rw [h]
  · exact changes_of_eq rfl
  · exact changes_of_sameBody (.intro _ _ _ _ _ _ _)

theorem stallLimitEffect_changes : Changes i s (stallLimitEffect p s).1 := by
  rcases stallLimitEffect_cases p s with h | ⟨-, -, h⟩ <;> rw [h]
  · exact changes_of_eq rfl
  · exact changes_of_sameBody (.intro _ _ _ _ _ _ _)

theorem creditEffect_changes : Changes i s (creditEffect p s).1 := by
  rcases creditEffect_cases p s with h | ⟨n, hn, h⟩ <;> rw [h]
  · exact changes_of_eq rfl
  · exact Change.changes (.meter _ ⟨Or.inl rfl, rfl, Or.inl hn⟩)

theorem attachEffect_changes : Changes i s (attachEffect p s).1 := by
  refine (Change.engine s.engine.attach s.notices ?_ ?_ (.refl _)).changes <;> unfold Engine.attach <;> split
  · rfl
  · rfl
  · exact fun h => Phase.noConfusion h
  · exact id

theorem detachEffect_changes : Changes i s (detachEffect p s).1 := by
  rcases detachEffect_cases p s with h | ⟨-, h⟩ | ⟨-, h⟩ | ⟨-, h⟩ <;> rw [h]
  · exact changes_of_eq rfl
  · exact (change_endTransaction (by decide) (.refl _)).changes
  · exact Change.changes (.engine s.engine.detachNow s.notices rfl Phase.noConfusion (.refl _))
  · exact Change.changes (.engine { s.engine with detaching := true } s.notices rfl id (.refl _))

theorem installEffect_changes : Changes i s (installEffect p s).1 := by
  rcases installEffect_cases p s with h | ⟨j, hj, h⟩ <;> rw [h]
  · exact changes_of_eq rfl
  · exact Change.changes (.install j _ hj)

theorem activateEffect_changes : Changes i s (activateEffect p s).1 := by
  rcases activateEffect_cases p s with h | ⟨j, r, hr, hs, h⟩ <;> rw [h]
  · exact changes_of_eq rfl
  · exact Change.changes (.record j r _ s.notices hr (.activate hs) (.refl _))

theorem quiesceEffect_changes : Changes i s (quiesceEffect p s).1 := by
  rcases quiesceEffect_cases p s with h | ⟨j, r, hr, hs, h⟩ <;> rw [h]
  · exact changes_of_eq rfl
  · exact Change.changes (.record j r _ s.notices hr (.quiesce hs) (.refl _))

theorem resumeEffect_changes : Changes i s (resumeEffect p s).1 := by
  rcases resumeEffect_cases p s with h | ⟨j, r, hr, hs, h⟩ <;> rw [h]
  · exact changes_of_eq rfl
  · exact Change.changes (.record j r _ s.notices hr (.resume hs) (.refl _))

theorem retireEffect_changes : Changes i s (retireEffect p s).1 := by
  rcases retireEffect_cases p s with h | ⟨j, r, hr, hs, ⟨hp, h⟩ | ⟨hp, hh, h⟩ | ⟨hp, hh, h⟩⟩ <;> rw [h]
  · exact changes_of_eq rfl
  · exact Change.changes (.free j hp)
  · obtain ⟨c, hc, rfl⟩ := State.pinned_iff.1 hp
    exact Change.changes (.finishRetire c r hc hr hs hh)
  · exact Change.changes (.record j r _ s.notices hr (.retire hs hp hh) (.refl _))

theorem touchEffect_changes : Changes i s (touchEffect p s).1 := by
  rcases touchEffect_cases p s with h | ⟨j, r, hr, hs, h⟩ <;> rw [h]
  · exact changes_of_eq rfl
  · rw [State.refresh_of_record hr]
    exact Change.changes (.record j r _ s.notices hr (.reload hs) (.refl _))

/-- LOAD and FILL carry 1 to 48 data bytes (R51, R189). -/
theorem length_drop_two_of_allowed (h : 3 ≤ p.length ∧ p.length ≤ 50) : 1 ≤ (p.drop 2).length ∧ (p.drop 2).length ≤ 48 := by
  rw [List.length_drop]
  omega

theorem change_keepLoad {j : Slot} {r : Record} {b : Bank} {offset : Nat} {data : List Byte}
    (hlen : 1 ≤ data.length ∧ data.length ≤ 48) (hr : s.record j = some r) (hs : r.state ≠ .retiring)
    (hb : r.content = .bank b) (hrange : offset + data.length ≤ b.size) (hp : s.pinned j = true)
    (hroom : s.updateHold.length < 4) :
    Change i s (({ s with updateHold := s.updateHold ++ [{ slot := j, offset := offset, data := data }] } : State).refresh j) := by
  rw [State.refresh_of_record (s := { s with updateHold := s.updateHold ++ [_] }) hr]
  exact .keepLoad j r b offset data hr hs hb hlen.1 hlen.2 hrange hp hroom

theorem change_load {j : Slot} {r : Record} {b : Bank} {offset : Nat} {data : List Byte} (hr : s.record j = some r)
    (hs : r.state ≠ .retiring) (hb : r.content = .bank b) (hp : s.pinned j = false) :
    Change i s ((s.writeWindow b offset data).refresh j) := by
  rw [State.refresh_of_record (s := s.writeWindow b offset data) hr]
  exact .load j r b offset data hr hs hb hp

theorem loadEffect_changes (hp : lengthAllowed .load p.length = true) : Changes i s (loadEffect p s).1 := by
  have hlen : 3 ≤ p.length ∧ p.length ≤ 50 := by simpa [lengthAllowed] using hp
  rcases loadEffect_cases p s with h | ⟨j, r, b, offset, _, hr, hs, hb, rfl, hrange, ⟨hp, hroom, h⟩ | ⟨hp, h⟩⟩ <;> rw [h]
  · exact changes_of_eq rfl
  · exact (change_keepLoad (length_drop_two_of_allowed hlen) hr hs hb hrange hp hroom).changes
  · exact (change_load hr hs hb hp).changes

theorem fillEffect_changes (hp : lengthAllowed .fill p.length = true) : Changes .fill s (fillEffect p s).1 := by
  have hlen : 3 ≤ p.length ∧ p.length ≤ 50 := by simpa [lengthAllowed] using hp
  rcases fillEffect_cases p s with h | ⟨j, r, b, offset, _, hr, hs, hb, rfl, hrange,
    ⟨hp, hroom, h⟩ | ⟨hp, h⟩ | ⟨c, hc, rfl, -, -, -, h⟩⟩ <;> rw [h]
  · exact changes_of_eq rfl
  · exact (change_keepLoad (length_drop_two_of_allowed hlen) hr hs hb hrange hp hroom).changes
  · exact (change_load hr hs hb hp).changes
  · rw [State.refresh_of_record (s := s.writeWindow b offset (p.drop 2)) hr]
    exact Change.changes (.fetch c { c with holdReason := none } _ r b offset _
      ⟨hc, rfl, ⟨rfl, rfl, rfl, Or.inl rfl⟩, Phase.noConfusion⟩ rfl hr hs hb)

theorem postEffect_changes : Changes i s (postEffect p s).1 := by
  rcases postEffect_cases p s with h | ⟨j, r, m, k, rest, msg, hr, hs, hm, hroom, hfree, h1, h32, h⟩ <;> rw [h]
  · exact changes_of_eq rfl
  · exact Change.changes (.post j r m k rest msg hr hs hm hroom hfree h1 h32)

theorem flushEffect_changes : Changes i s (flushEffect p s).1 := by
  rcases flushEffect_cases p s with h | ⟨j, r, m, hr, hm, ⟨hn, h⟩ | ⟨k, hk, h⟩⟩ <;> rw [h]
  · exact changes_of_eq rfl
  · exact Change.changes (.flushAll j r m hr hm hn)
  · exact Change.changes (.flushAround j r m k hr hm hk)

theorem takeReset_changes : Changes i s s.takeReset := by
  unfold State.takeReset
  split
  · exact changes_of_eq rfl
  · split
    · split
      · exact Change.clear.changes.then_sameBody (.intro _ _ _ _ _ _ _)
      · exact changes_of_sameBody (.intro _ _ _ _ _ _ _)
    · exact changes_of_eq rfl

theorem takeUnknown_changes : Changes i s s.takeUnknown := by
  unfold State.takeUnknown
  split
  · exact changes_of_eq rfl
  · split
    · exact changes_of_sameBody (.intro _ _ _ _ _ _ _)
    · exact changes_of_eq rfl

theorem takeDuplicate_changes : Changes i s s.takeDuplicate := by
  unfold State.takeDuplicate
  split
  · split
    · exact changes_of_sameBody (.intro _ _ _ _ _ _ _)
    · exact changes_of_eq rfl
  · exact changes_of_eq rfl

end Commands

/-! ## The link -/

section LinkEvents

variable {i : Instr} {s : State}

/-- The arbiter takes at most one credit, and leaves the completed notices (R145). -/
theorem State.arbitrate_metered (s : State) :
    Metered s.notices s.arbitrate.notices ∧ s.arbitrate.notices.completed = s.notices.completed := by
  have same : Metered s.notices s.notices := ⟨Or.inl rfl, rfl, Or.inr (Nat.le_refl _)⟩
  rcases s.arbitrate_cases with h | ⟨cause, -, -, h⟩ | ⟨f, rest, -, -, h⟩ | ⟨n, rest, -, -, -, -, h⟩ <;> rw [h]
  · exact ⟨same, rfl⟩
  · exact ⟨same, rfl⟩
  · exact ⟨same, rfl⟩
  · exact ⟨⟨Or.inl rfl, rfl, Or.inr (Nat.sub_le _ _)⟩, rfl⟩

theorem arbitrate_changes : Changes i s s.arbitrate := by
  rw [State.arbitrate_frame]
  exact (Change.meter _ s.arbitrate_metered.1).changes.then_sameBody (.intro _ _ _ _ _ _ _)

theorem linkReset_changes : Changes i s s.linkReset := by
  unfold State.linkReset
  split
  · exact changes_of_eq rfl
  · exact Changes.then_sameBody (Change.changes (.meter
      { s.notices with credit := 0, seq := 0, overflow := s.notices.overflow || cutOverflow s.link.sending }
      ⟨Or.inl rfl, rfl, Or.inl (Nat.zero_le _)⟩)) (.intro _ _ _ _ _ _ _)

/-- The Notice Queue without the notice that has been sent (R145). -/
def NoticeQueue.afterSent (q : NoticeQueue) : NoticeQueue := { q with completed := q.completed.tail, seq := q.seq + 1 }

theorem NoticeQueue.afterSent_metered (q : NoticeQueue) : Metered q q.afterSent :=
  ⟨Or.inr rfl, rfl, Or.inr (Nat.le_refl _)⟩

/-- A notice sent in full leaves the queue, and a SPACE hold may be granted before the arbiter decides (R126, R145). -/
theorem noticeSent_arbitrate_changes : Changes i s s.noticeSent.arbitrate := by
  have hsent : s.noticeSent = State.grantSpace { s with notices := s.notices.afterSent } := rfl
  rw [State.arbitrate_frame]
  obtain ⟨hmeter, hsame⟩ := s.noticeSent.arbitrate_metered
  rcases State.grantSpace_cases { s with notices := s.notices.afterSent } with
    h | ⟨c, r, hc, hr, hh, hreason, hcan, h⟩ <;> rw [← hsent] at h <;> rw [h] at hmeter hsame ⊢
  · exact Changes.then_sameBody (Change.changes (.meter _ ⟨Or.inr hsame, hmeter.reservation, hmeter.credit⟩))
      (.intro _ _ _ _ _ _ _)
  · have hphase : ackPhase r.content .write ≠ .hold := by cases r.content <;> exact Phase.noConfusion
    exact Changes.then_sameBody (Change.changes (.grant c r s.notices.afterSent _ _ hc hr hh hreason
      s.notices.afterSent_metered hcan hmeter hsame rfl hphase)) (.intro _ _ _ _ _ _ _)

theorem frameSent_changes : Changes i s s.frameSent := by
  unfold State.frameSent
  split
  · exact changes_of_eq rfl
  · rename_i x _
    cases x
    case hello | response => exact arbitrate_changes.of_sameBody (.intro _ _ _ _ _ _ _)
    case notice => exact (noticeSent_arbitrate_changes (s := s.lineIdle)).of_sameBody (.intro _ _ _ _ _ _ _)

theorem endHardReset_changes (bsel1 bsel0 lrxHigh : Bool) : Changes i s (s.endHardReset bsel1 bsel0 lrxHigh) := by
  unfold State.endHardReset
  split
  · exact Change.clear.changes.then_sameBody (.intro _ _ _ _ _ _ _)
  · exact changes_of_eq rfl

end LinkEvents

/-! ## The served bus and the timers -/

section BusEvents

variable {i : Instr} {s : State}

theorem startCondition_changes : Changes i s s.startCondition := by
  rcases s.startCondition_cases with ⟨-, h⟩ | ⟨-, -, h⟩ | ⟨-, h⟩ <;> rw [h]
  · exact changes_of_eq rfl
  · exact Change.changes (.engine _ s.notices rfl Phase.noConfusion (.refl _))
  · exact (change_endTransaction (by decide) (.refl _)).changes

theorem stopCondition_changes : Changes i s s.stopCondition := by
  rcases s.stopCondition_cases with ⟨-, h⟩ | ⟨-, -, -, h⟩ | ⟨-, -, h⟩ | ⟨-, h⟩ <;> rw [h]
  · exact changes_of_eq rfl
  · exact Change.changes (.engine _ s.notices rfl Phase.noConfusion (.refl _))
  · exact Change.changes (.engine _ s.notices rfl Phase.noConfusion (.refl _))
  · exact (change_endTransaction (by decide) (.refl _)).changes

theorem answerAddress_changes (h : s.engine.phase = .address) (a : Address) (d : Direction) :
    Changes i s (s.answerAddress a d) := by
  rcases s.answerAddress_cases a d with hn | ⟨j, r, hres, hcases⟩
  · rw [hn]
    exact Change.changes (.engine _ s.notices rfl Phase.noConfusion (.refl _))
  obtain ⟨-, hr, hstate, -⟩ := resolve_eq_some hres
  have hlive (ho : addressOutcome r d ≠ .nack) : r.state = .live := by
    rcases addressOutcome_cases r d with hn | ⟨hq, -⟩
    · exact absurd hn ho
    · exact hstate.resolve_right hq
  rcases hcases with ⟨ho, ha⟩ | ⟨ho, n, rfl, ⟨-, ha⟩ | ⟨-, ha⟩⟩ | ⟨ho, ⟨hcan, ha⟩ | ⟨-, ha⟩⟩ <;> rw [ha]
  · exact Change.changes (.pin j r d none false _ s.notices h hr (hlive (by simp [ho])) rfl (Or.inr ⟨rfl, .refl _⟩))
  · exact Change.changes (.pin j r d (some .fetch) false _ _ h hr (hlive (by simp [ho])) rfl (Or.inr ⟨rfl, .raise _ rfl⟩))
  · exact Change.changes (.engine _ _ rfl Phase.noConfusion (.raise _ rfl))
  · exact Change.changes (.pin j r d none true _ _ h hr (hlive (by simp [ho])) rfl (Or.inl ⟨rfl, hcan, rfl⟩))
  · exact Change.changes (.pin j r d (some .space) false _ s.notices h hr (hlive (by simp [ho])) rfl (Or.inr ⟨rfl, .refl _⟩))

theorem addressByte_changes (v : Byte) : Changes i s (s.addressByte v) := by
  unfold State.addressByte
  split
  · rename_i h
    split
    · exact Change.changes (.engine _ s.notices rfl Phase.noConfusion (.refl _))
    · exact answerAddress_changes h _ _
  · exact changes_of_eq rfl

/-- A write byte taken or refused moves nothing of the context that the rest of the part sees. -/
theorem change_nackByte {c : Context} (hc : s.engine.ctx = some c) : Change i s (s.nackByte c) :=
  .context c { c with refusing := true } _ ⟨hc, rfl, ⟨rfl, rfl, rfl, Or.inl rfl⟩, Phase.noConfusion⟩

theorem pointerByte_changes (v : Byte) : Changes i s (s.pointerByte v) := by
  unfold State.pointerByte
  split
  · exact changes_of_eq rfl
  · rename_i c r b h
    obtain ⟨-, hc, hr, hb⟩ := State.openBank_eq_some h
    split
    · rename_i hv
      exact Change.changes (.point c { c with startPointer := v.toNat } _ r b v.toNat
        ⟨hc, rfl, ⟨rfl, rfl, rfl, Or.inl rfl⟩, Phase.noConfusion⟩ hr hb (Nat.le_of_lt hv))
    · exact (change_nackByte hc).changes

theorem bankWriteByte_changes (v : Byte) : Changes (.bankWriteByte v) s (s.bankWriteByte v) := by
  unfold State.bankWriteByte
  split
  · exact changes_of_eq rfl
  rename_i c r b h
  obtain ⟨-, hc, hr, hb⟩ := State.openBank_eq_some h
  split
  · exact (change_nackByte hc).changes
  split
  · exact (change_nackByte hc).changes
  · rename_i hpolicy
    unfold State.applyByte
    split
    · rename_i hp
      exact Change.changes (.apply v c c _ r b ⟨hc, rfl, ⟨rfl, rfl, rfl, Or.inl rfl⟩, Phase.noConfusion⟩ rfl hr hb hpolicy hp)
    · exact (change_nackByte hc).changes
  · unfold State.forwardByte
    split
    · rename_i hp
      exact Change.changes (.point c { c with collected := c.collected ++ [v] } _ r b (b.pointer + 1)
        ⟨hc, rfl, ⟨rfl, rfl, rfl, Or.inl rfl⟩, Phase.noConfusion⟩ hr hb hp.1)
    · exact (change_nackByte hc).changes

theorem mailboxWriteByte_changes (v : Byte) : Changes i s (s.mailboxWriteByte v) := by
  unfold State.mailboxWriteByte
  split
  · exact changes_of_eq rfl
  rename_i c r m h
  obtain ⟨-, hc, -, -⟩ := State.openMailbox_eq_some h
  split
  · exact Change.changes (.context c { c with collected := c.collected ++ [v] } _
      ⟨hc, rfl, ⟨rfl, rfl, rfl, Or.inl rfl⟩, Phase.noConfusion⟩)
  · exact (change_nackByte hc).changes

/-- Driving a byte in READ under a context that serves what it did. -/
theorem change_drive {c : Context} (hphase : s.engine.phase = .read) (hc : s.engine.ctx = some c) (x : ReadSource)
    (v : Byte) : Change i s (s.drive c x v) :=
  .context c c _ ⟨hc, rfl, ⟨rfl, rfl, rfl, Or.inl rfl⟩, hphase ▸ Phase.noConfusion⟩

/-- The first byte of a mailbox read fixes the served message (R104). -/
theorem change_drive_first {c : Context} (hphase : s.engine.phase = .read) (hc : s.engine.ctx = some c)
    (hu : c.served = .unfixed) {x : Served} (hx : ∀ k, x = .message k → (s.queueOf c.slot).head? = some k) (v : Byte) :
    Change i s (s.drive { c with served := x } .length v) :=
  .context c { c with served := x } _
    ⟨hc, rfl, ⟨rfl, rfl, rfl, Or.inr ⟨hu, hphase, hx⟩⟩, hphase ▸ Phase.noConfusion⟩

/-- The queue of a mailbox's slot. -/
theorem State.queueOf_of_mailbox {s : State} {j : Slot} {r : Record} {m : Mailbox} (hr : s.record j = some r)
    (hm : r.content = .mailbox m) : s.queueOf j = m.queue := by
  simp [State.queueOf, hr, hm]

theorem readByteDrive_changes : Changes i s s.readByteDrive := by
  unfold State.readByteDrive
  split
  · exact changes_of_eq rfl
  split
  · rename_i c r b _ h
    obtain ⟨hphase, hc, -, -⟩ := State.openBank_eq_some h
    unfold State.driveBank
    split <;> exact (change_drive hphase hc _ _).changes
  · rename_i c r m _ h
    obtain ⟨hphase, hc, hr, hm⟩ := State.openMailbox_eq_some h
    unfold State.driveMailbox
    split
    · rename_i hu
      split
      · exact (change_drive_first hphase hc hu (fun k hk => Served.noConfusion hk) _).changes
      · rename_i k rest hq
        refine (change_drive_first hphase hc hu (fun l hl => ?_) _).changes
        rw [State.queueOf_of_mailbox hr hm, hq, List.head?_cons, Served.message.inj hl]
    · exact (change_drive hphase hc _ _).changes
    · split <;> exact (change_drive hphase hc _ _).changes
  · exact changes_of_eq rfl

theorem readByteAcknowledge_changes (ack : Bool) : Changes i s (s.readByteAcknowledge ack) := by
  have hnohold : (if ack then Phase.read else .readEnd) ≠ .hold := by cases ack <;> exact Phase.noConfusion
  have hsame : Change i s (s.enterPhase (if ack then .read else .readEnd)) :=
    .engine _ s.notices rfl (fun h => absurd h hnohold) (.refl _)
  unfold State.readByteAcknowledge
  split
  case isFalse => exact changes_of_eq rfl
  split
  case h_1 x _ _ _ =>
    unfold State.countDriven
    split
    · split
      · rename_i c r b h
        obtain ⟨-, hc, hr, hb⟩ := State.openBank_eq_some h
        split
        · rename_i hp
          exact Change.changes (.point c c _ r b (b.pointer + 1)
            ⟨hc, hc, ⟨rfl, rfl, rfl, Or.inl rfl⟩, hnohold⟩ hr hb hp)
        · exact hsame.changes
      · exact hsame.changes
    · split
      · rename_i c hc
        exact Change.changes (.context c { c with headServed := c.headServed + 1 } _
          ⟨hc, rfl, ⟨rfl, rfl, rfl, Or.inl rfl⟩, hnohold⟩)
      · exact hsame.changes
    · exact hsame.changes
    · exact hsame.changes
  all_goals exact changes_of_eq rfl

theorem sclEdge_changes (edge : Edge) : Changes i s (s.sclEdge edge) := by
  unfold State.sclEdge
  split
  · exact Change.changes (.engine _ s.notices rfl id (.refl _))
  · split
    · exact Change.changes (.engine _ s.notices rfl id (.refl _))
    · exact changes_of_eq rfl

theorem holdExpiry_changes : Changes i s s.holdExpiry := by
  rcases s.holdExpiry_cases with h | ⟨c, reason, n, -, -, -, rfl, h⟩ <;> rw [h]
  · exact changes_of_eq rfl
  · exact (change_endTransaction (cause := .expiry) (by decide) (.raise _ rfl)).changes.then_sameBody (.intro _ _ _ _ _ _ _)

theorem abandonment_changes : Changes i s s.abandonment := by
  rcases s.abandonment_cases with h | ⟨c, n, -, -, rfl, h⟩ <;> rw [h]
  · exact changes_of_eq rfl
  · exact (change_endTransaction (cause := .abandonment) (by decide) (.raise _ rfl)).changes.then_sameBody (.intro _ _ _ _ _ _ _)

theorem change_expire {j : Slot} {r : Record} (hr : s.record j = some r) (h : r.interval ≠ 0) :
    Change i s (s.expire j r) :=
  .record j r _ _ hr (.expire h) (.raise _ rfl)

theorem freshnessTick_changes (n : Nat) : Changes i s (s.freshnessTick n) := by
  rcases s.freshnessTick_cases n with h | ⟨j, r, hr, hcount, h | ⟨h1, h⟩⟩ <;> rw [h]
  · exact changes_of_eq rfl
  · have hinterval : r.interval ≠ 0 := by
      simp only [Record.counting, Bool.and_eq_true, bne_iff_ne] at hcount
      exact hcount.1.2
    exact (change_expire hr hinterval).changes
  · exact Change.changes (.record j r _ s.notices hr (.tick hcount h1) (.refl _))

theorem freshnessExpiry_changes (n : Nat) : Changes i s (s.freshnessExpiry n) := by
  rcases s.freshnessExpiry_cases n with h | ⟨j, r, hr, hexp, h⟩ <;> rw [h]
  · exact changes_of_eq rfl
  · have hinterval : r.interval ≠ 0 := by
      simp only [Record.expiring, Bool.and_eq_true, bne_iff_ne] at hexp
      exact hexp.1.1.2
    exact (change_expire hr hinterval).changes

end BusEvents

/-! ## Every event, and every step -/

/-- Every command and event changes the part by an entry of the list. -/
theorem effectOf_changes (i : Instr) (s : State) : Changes i s (effectOf i s) := by
  cases i <;> simp only [effectOf]
  case identify => exact runCommand_changes (fun p s _ => changes_of_eq rfl) s
  case status => exact runCommand_changes (fun p s _ => statusEffect_changes) s
  case reset => exact takeReset_changes
  case credit => exact runCommand_changes (fun p s _ => creditEffect_changes) s
  case attach => exact runCommand_changes (fun p s _ => attachEffect_changes) s
  case detach => exact runCommand_changes (fun p s _ => detachEffect_changes) s
  case holdLimit => exact runCommand_changes (fun p s _ => holdLimitEffect_changes) s
  case stallLimit => exact runCommand_changes (fun p s _ => stallLimitEffect_changes) s
  case install => exact runCommand_changes (fun p s _ => installEffect_changes) s
  case activate => exact runCommand_changes (fun p s _ => activateEffect_changes) s
  case quiesce => exact runCommand_changes (fun p s _ => quiesceEffect_changes) s
  case resume => exact runCommand_changes (fun p s _ => resumeEffect_changes) s
  case retire => exact runCommand_changes (fun p s _ => retireEffect_changes) s
  case query => exact runCommand_changes (fun p s _ => changes_of_eq (queryEffect_fst p s)) s
  case lookup => exact runCommand_changes (fun p s _ => changes_of_eq (lookupEffect_fst p s)) s
  case touch => exact runCommand_changes (fun p s _ => touchEffect_changes) s
  case load => exact runCommand_changes (fun p s h => loadEffect_changes h) s
  case read => exact runCommand_changes (fun p s _ => changes_of_eq (readEffect_fst p s)) s
  case fill => exact runCommand_changes (fun p s h => fillEffect_changes h) s
  case post => exact runCommand_changes (fun p s _ => postEffect_changes) s
  case flush => exact runCommand_changes (fun p s _ => flushEffect_changes) s
  case unknownCommand => exact takeUnknown_changes
  case duplicate => exact takeDuplicate_changes
  case frameReceived crc =>
    rw [State.takeCrc_frame]
    exact changes_of_sameBody (.intro _ _ _ _ _ _ _)
  case framingError =>
    rw [State.framingError_frame]
    exact changes_of_sameBody (.intro _ _ _ _ _ _ _)
  case gapTimeout =>
    rw [State.gapTimeout_frame]
    exact changes_of_sameBody (.intro _ _ _ _ _ _ _)
  case linkReset => exact linkReset_changes
  case breakEnd =>
    rw [State.breakEnd_frame]
    exact changes_of_sameBody (.intro _ _ _ _ _ _ _)
  case frameStart => exact arbitrate_changes
  case frameSent => exact frameSent_changes
  case hardwareReset => exact Change.clear.changes.then_sameBody (.intro _ _ _ _ _ _ _)
  case hardwareResetEnd bsel1 bsel0 lrxHigh => exact endHardReset_changes bsel1 bsel0 lrxHigh
  case startCondition => exact startCondition_changes
  case stopCondition => exact stopCondition_changes
  case addressByte v => exact addressByte_changes v
  case pointerByte v => exact pointerByte_changes v
  case bankWriteByte v => exact bankWriteByte_changes v
  case mailboxWriteByte v => exact mailboxWriteByte_changes v
  case readByteDrive => exact readByteDrive_changes
  case readByteAcknowledge ack => exact readByteAcknowledge_changes ack
  case holdExpiry => exact holdExpiry_changes
  case abandonment => exact abandonment_changes
  case freshnessTick n => exact freshnessTick_changes n
  case freshnessExpiry n => exact freshnessExpiry_changes n
  case characterReceived v =>
    rw [State.takeCharacter_frame]
    exact changes_of_sameBody (.intro _ _ _ _ _ _ _)
  case sclEdge edge => exact sclEdge_changes edge

/-- What holds after every entry of the list, of a state that meets `P`, holds after every event. -/
theorem exec_changes {P Q : State → Prop} (hP : OfBody P) (hQ : OfBody Q)
    (h : ∀ i s t, Change i s t → P s → Q t) {i : Instr} {s t : State} (hs : P s) (ht : exec i s = .next t) : Q t := by
  have hchanges : Changes i s t := by
    rcases exec_cases ht with rfl | rfl
    · exact changes_of_eq rfl
    · exact effectOf_changes i s
  obtain ⟨s', t', hs', hc, ht'⟩ := hchanges
  exact hQ t' t ht' (h i s' t' hc (hP s s' hs' hs))

/-- What holds after every entry of the list, of a state that meets `P`, holds after every step. -/
theorem step_changes {P Q : State → Prop} (hP : OfBody P) (hQ : OfBody Q)
    (h : ∀ i s t, Change i s t → P s → Q t) {s t : State} (hs : P s) (ht : step s = .next t) : Q t := by
  rcases step_cases ht with ⟨-, rfl⟩ | ⟨i, rest, -, hexec⟩
  · exact h .identify t t .idle hs
  · exact exec_changes hP hQ h (hP s _ (.intro _ _ _ _ _ _ _) hs) hexec

/-- A law kept by every entry of the list, in states that meet a second law, is kept by every step. -/
theorem step_keeps_law {Q P : State → Prop} (hQ : OfBody Q) (hP : OfBody P)
    (h : ∀ i s t, Change i s t → Q s → P s → P t) {s t : State} (hq : Q s) (hp : P s) (ht : step s = .next t) : P t :=
  step_changes (hQ.and hP) hP (fun i s t hc hs => h i s t hc hs.1 hs.2) ⟨hq, hp⟩ ht

end Sys2Proof.Machine

/-! What becomes of each record in a step: it is freed, or it stays with the fields INSTALL fixed, or INSTALL fills
its slot (R8, R16). From this: the fixed fields, the ranges, freshness and the address sets. -/

namespace Sys2Proof.Machine

/-! ## One slot in a step -/

/-- What a step can make of a record that stays. -/
inductive RecordStep (s : State) (j : Slot) (r : Record) : Record → Prop
  | same : RecordStep s j r r
  | move {r' : Record} (h : RecordMove s j r r') : RecordStep s j r r'
  | unqueue (m : Mailbox) (queue : List BufferNo) (mark : Bool) (hm : r.content = .mailbox m)
      (hq : queue.Sublist m.queue) :
      RecordStep s j r { r with content := .mailbox { m with queue := queue, headFlushed := mark } }
  | post (m : Mailbox) (k : BufferNo) (hm : r.content = .mailbox m) (hroom : m.queue.length < m.depth) :
      RecordStep s j r { r.reload with content := .mailbox { m with queue := m.queue ++ [k] } }

/-- Slot `j` holds no record after the step, or what the step made of the record it held. -/
def SlotKept (s t : State) (j : Slot) : Prop :=
  t.record j = none ∨ ∃ r r', s.record j = some r ∧ t.record j = some r' ∧ RecordStep s j r r'

theorem slotKept_of_eq {s t : State} {j : Slot} (h : t.record j = s.record j) : SlotKept s t j := by
  cases hr : s.record j with
  | none => exact Or.inl (h.trans hr)
  | some r => exact Or.inr ⟨r, r, hr, h.trans hr, .same⟩

/-- A table with one record replaced. -/
theorem slotKept_of_set {s t : State} {j : Slot} {r r' : Record} (hr : s.record j = some r)
    (ht : t.table = s.table.set j.val (some r') j.isLt) (h : RecordStep s j r r') (l : Slot) : SlotKept s t l := by
  have ht : t.record l = (s.setRecord j (some r')).record l := State.record_congr ht l
  rw [State.record_setRecord] at ht
  by_cases hl : l = j
  · subst hl
    exact Or.inr ⟨r, r', hr, by rw [ht, if_pos rfl], h⟩
  · exact slotKept_of_eq (by rw [ht, if_neg hl])

theorem slotKept_of_table {s t : State} (h : t.table = s.table) (j : Slot) : SlotKept s t j :=
  slotKept_of_eq (State.record_congr h j)

theorem slotKept_freeRecord {s t : State} {j l : Slot} (h : SlotKept s t l) : SlotKept s (t.freeRecord j) l := by
  by_cases hl : l = j
  · exact Or.inl (by rw [State.record_freeRecord, if_pos hl])
  · unfold SlotKept
    rwa [State.record_freeRecord, if_neg hl]

/-! ## The end of a transaction -/

/-- `u` has the records, the pools and the buffers of `t`. -/
structure SameRecords (t u : State) : Prop where
  table : u.table = t.table
  freeBlocks : u.freeBlocks = t.freeBlocks
  freeBuffers : u.freeBuffers = t.freeBuffers
  buffers : u.buffers = t.buffers

theorem SameRecords.record {t u : State} (h : SameRecords t u) (j : Slot) : u.record j = t.record j :=
  State.record_congr h.table j

theorem SameRecords.freeRecord {t u : State} (h : SameRecords t u) (j : Slot) :
    SameRecords (t.freeRecord j) (u.freeRecord j) := by
  obtain ⟨ht, hb, hf, hm⟩ := h
  have hblocks : u.blocksOf j = t.blocksOf j := by simp only [State.blocksOf, State.record_congr ht]
  have hqueue : u.queueOf j = t.queueOf j := by simp only [State.queueOf, State.record_congr ht]
  rw [State.freeRecord_eq, State.freeRecord_eq]
  exact ⟨by simp only [ht], by simp only [hblocks, hb], by simp only [hqueue, hf], hm⟩

theorem SameRecords.trans {t u v : State} (h : SameRecords t u) (k : SameRecords u v) : SameRecords t v :=
  ⟨k.table.trans h.table, k.freeBlocks.trans h.freeBlocks, k.freeBuffers.trans h.freeBuffers, k.buffers.trans h.buffers⟩

theorem SameRecords.retiring {t u : State} (h : SameRecords t u) (j : Slot) : u.retiring j = t.retiring j := by
  simp only [State.retiring, h.record]

/-- Step 2 reads the records and the buffers alone. -/
theorem SameRecords.settleHead {t u : State} (h : SameRecords t u) (c : Context) (cause : EndCause) :
    SameRecords (t.settleHead c cause) (u.settleHead c cause) := by
  obtain ⟨ht, hb, hf, hm⟩ := h
  have hbuffer (k : BufferNo) : u.buffer k = t.buffer k := by simp only [State.buffer, hm]
  unfold State.settleHead
  rw [State.record_congr ht]
  split
  · split
    · rw [hbuffer]
      split
      · exact ⟨by simp only [State.removeServed, State.setContent_table, ht], hb, congrArg (poolInsert _) hf, hm⟩
      · exact ⟨ht, hb, hf, hm⟩
    · exact ⟨ht, hb, hf, hm⟩
  · exact ⟨ht, hb, hf, hm⟩

theorem sameRecords_settleReservation (s : State) (c : Context) (cause : EndCause) :
    SameRecords s (s.settleReservation c cause) := by
  rw [State.settleReservation_frame]
  exact ⟨rfl, rfl, rfl, rfl⟩

theorem sameRecords_settleUpdateHold (s : State) (c : Context) (cause : EndCause) :
    SameRecords s (s.settleUpdateHold c cause) := by
  rw [State.settleUpdateHold_frame]
  exact ⟨rfl, rfl, rfl, rfl⟩

/-- Step 4 leaves the records, or frees the one that is RETIRING (R25). -/
theorem settleRetirement_records (s : State) (c : Context) :
    (s.retiring c.slot = false ∧ SameRecords s (s.settleRetirement c)) ∨
    (s.retiring c.slot = true ∧ SameRecords (s.freeRecord c.slot) (s.settleRetirement c)) := by
  rcases s.settleRetirement_cases c with ⟨hn, h⟩ | ⟨r, hr, hs, h⟩ <;> rw [h]
  · exact Or.inl ⟨hn, rfl, rfl, rfl, rfl⟩
  · exact Or.inr ⟨by simp [State.retiring, hr, hs], rfl, rfl, rfl, rfl⟩

/-- Records and pools after the end of a transaction: those that step 2 leaves, and a RETIRING record freed (R77). -/
theorem State.endTransaction_records {s : State} {c : Context} (hc : s.engine.ctx = some c) (cause : EndCause) :
    ((s.settleHead c cause).retiring c.slot = false ∧ SameRecords (s.settleHead c cause) (s.endTransaction cause)) ∨
    ((s.settleHead c cause).retiring c.slot = true ∧
      SameRecords ((s.settleHead c cause).freeRecord c.slot) (s.endTransaction cause)) := by
  have hthree : SameRecords (s.settleHead c cause)
      (((s.settleReservation c cause).settleHead c cause).settleUpdateHold c cause) :=
    ((sameRecords_settleReservation s c cause).settleHead c cause).trans (sameRecords_settleUpdateHold _ c cause)
  have hlast : SameRecords
      ((((s.settleReservation c cause).settleHead c cause).settleUpdateHold c cause).settleRetirement c)
      (s.endTransaction cause) := by
    rw [State.endTransaction_eq, State.unpin_some hc]
    exact ⟨rfl, rfl, rfl, rfl⟩
  rcases settleRetirement_records _ c with ⟨hn, h⟩ | ⟨hn, h⟩
  · exact Or.inl ⟨(hthree.retiring c.slot).symm.trans hn, (hthree.trans h).trans hlast⟩
  · exact Or.inr ⟨(hthree.retiring c.slot).symm.trans hn, ((hthree.freeRecord c.slot).trans h).trans hlast⟩

theorem slotKept_settleHead (s : State) (c : Context) (cause : EndCause) (j : Slot) :
    SlotKept s (s.settleHead c cause) j := by
  rcases s.settleHead_cases c cause with h | ⟨r, m, k, hr, hm, -, h⟩ <;> rw [h]
  · exact slotKept_of_eq rfl
  · exact slotKept_of_set hr rfl (.unqueue m _ false hm List.erase_sublist) j

theorem slotKept_endTransaction {s : State} {c : Context} (hc : s.engine.ctx = some c) (cause : EndCause) (j : Slot) :
    SlotKept s (s.endTransaction cause) j := by
  unfold SlotKept
  rcases State.endTransaction_records hc cause with ⟨-, h⟩ | ⟨-, h⟩ <;> rw [h.record]
  · exact slotKept_settleHead s c cause j
  · exact slotKept_freeRecord (slotKept_settleHead s c cause j)

/-! ## Every slot in a step -/

/-- INSTALL fills slot `j`, FREE before, and leaves every other slot. -/
theorem State.record_installAt (s : State) (j l : Slot) (q : InstallFields) :
    (s.installAt j q).record l = if l = j then some (installRecord s q) else s.record l := by
  have ht : (s.installAt j q).table = (s.setRecord j (some (installRecord s q))).table := by
    unfold State.installAt
    split <;> rfl
  rw [State.record_congr ht, State.record_setRecord]

/-- A step keeps every slot, or fills one that was FREE. -/
theorem Change.slots {i : Instr} {s t : State} (h : Change i s t) :
    (∀ j, SlotKept s t j) ∨ ∃ j q, installCheck s q = .ok j ∧ t = s.installAt j q := by
  cases h
  case install j q hok => exact Or.inr ⟨j, q, hok, rfl⟩
  all_goals refine Or.inl ?_
  case idle | meter | grant | engine | pin | context => exact slotKept_of_table rfl
  case clear => exact fun j => Or.inl (State.record_clearBlocks s j)
  case point c d e r b p h hr hb hp => exact slotKept_of_set hr rfl (.move (.point b p hb hp))
  case apply v c d e r b h hi hr hb _ hp => exact slotKept_of_set hr rfl (.move (.point b _ hb hp))
  case record j r r' q hr hm hq => exact slotKept_of_set hr rfl (.move hm)
  case keepLoad j r b offset data hr hs _ _ _ _ _ _ => exact slotKept_of_set hr rfl (.move (.reload hs))
  case load j r b offset data hr hs _ _ => exact slotKept_of_set hr rfl (.move (.reload hs))
  case fetch c d e r b offset data _ _ hr hs _ => exact slotKept_of_set hr rfl (.move (.reload hs))
  case post j r m k rest msg hr _ hm hroom _ _ _ => exact slotKept_of_set hr rfl (.post m k hm hroom)
  case flushAll j r m hr hm _ => exact slotKept_of_set hr rfl (.unqueue m [] m.headFlushed hm (List.nil_sublist _))
  case flushAround j r m k hr hm _ =>
    exact slotKept_of_set hr rfl (.unqueue m _ true hm List.filter_sublist)
  case free j _ => exact fun l => slotKept_freeRecord (slotKept_of_eq rfl)
  case finish cause c q hc _ _ => exact slotKept_endTransaction hc cause
  case finishRetire c r hc _ _ _ => exact fun l => slotKept_freeRecord (slotKept_endTransaction hc .retire l)

/-! ## The fixed fields (R8) -/

theorem SameFixedFields.refl (r : Record) : SameFixedFields r r := by
  unfold SameFixedFields
  cases r.content <;> simp

theorem RecordMove.sameFixedFields {s : State} {j : Slot} {r r' : Record} (h : RecordMove s j r r') :
    SameFixedFields r r' := by
  cases h
  case point b p hb hp => simp [SameFixedFields, hb]
  all_goals exact SameFixedFields.refl r

theorem RecordStep.sameFixedFields {s : State} {j : Slot} {r r' : Record} (h : RecordStep s j r r') :
    SameFixedFields r r' := by
  cases h
  case same => exact .refl r
  case move h => exact h.sameFixedFields
  case unqueue m queue mark hm hq => simp [SameFixedFields, hm]
  case post m k hm hroom => simp [SameFixedFields, hm, Record.reload]

theorem ofBody_record_kept (j : Slot) (r : Record) :
    OfBody fun t => t.record j = none ∨ ∃ q, t.record j = some q ∧ SameFixedFields r q :=
  fun _ _ ⟨_, _, _, _, _, _, _⟩ h => h

theorem ofBody_record_eq (j : Slot) (r : Record) : OfBody fun s => s.record j = some r :=
  fun _ _ ⟨_, _, _, _, _, _, _⟩ h => h

/-- Settles O59: a step keeps the slot's record with its fixed fields or frees it, and INSTALL fills another slot. -/
theorem everyStepKeepsWhatInstallFixed : Obligations.EveryStepKeepsWhatInstallFixed := by
  intro s t j r hstep hr
  refine step_changes (ofBody_record_eq j r) (ofBody_record_kept j r) (fun i s t hc hr => ?_) hr hstep
  rcases hc.slots with hkept | ⟨l, q, hok, rfl⟩
  · rcases hkept j with hfree | ⟨r₀, r', hr₀, hr', hmove⟩
    · exact Or.inl hfree
    · obtain rfl : r₀ = r := Option.some.inj (hr₀.symm.trans hr)
      exact Or.inr ⟨r', hr', hmove.sameFixedFields⟩
  · have hne : j ≠ l := by
      rintro rfl
      obtain ⟨-, -, -, hfree, -⟩ := installCheck_ok hok
      rw [hr] at hfree
      cases hfree
    exact Or.inr ⟨r, by rw [State.record_installAt, if_neg hne, hr], .refl r⟩

end Sys2Proof.Machine

/-! The laws of the records: ranges, freshness and the address sets (R2, R32, R151). -/

namespace Sys2Proof.Machine

/-! ## A record that stays -/

section Stays

variable {s : State} {j : Slot} {r r' : Record}

theorem Record.ranges_of_bank {b : Bank} (hb : r.content = .bank b) :
    r.ranges ↔ r.address &&& r.mask = 0 ∧ r.remaining.toNat ≤ r.interval.toNat ∧
      (r.interval = 0 → r.stale = false) ∧ b.ranges := by
  simp [Record.ranges, hb]

theorem Record.ranges_of_mailbox {m : Mailbox} (hm : r.content = .mailbox m) :
    r.ranges ↔ r.address &&& r.mask = 0 ∧ r.remaining.toNat ≤ r.interval.toNat ∧
      (r.interval = 0 → r.stale = false) ∧ m.ranges := by
  simp [Record.ranges, hm]

/-- A reload keeps the ranges: the count is the interval, and nothing is stale (R153). -/
theorem Record.ranges.reload (h : r.ranges) (state : EndpointState) : Record.ranges { r.reload with state := state } := by
  obtain ⟨haddress, -, -, hcontent⟩ := h
  exact ⟨haddress, Nat.le_refl _, fun _ => rfl, hcontent⟩

theorem Record.ranges.of_state (h : r.ranges) (state : EndpointState) : Record.ranges { r with state := state } := h

theorem RecordMove.ranges (h : RecordMove s j r r') (hr : r.ranges) : r'.ranges := by
  obtain ⟨haddress, hcount, hstale, hcontent⟩ := id hr
  cases h
  case reload => exact hr.reload r.state
  case activate | resume => exact hr.reload .live
  case quiesce | retire => exact hr.of_state _
  case tick hcounting _ =>
    have hpos : r.remaining ≠ 0 := by
      simp only [Record.counting, Bool.and_eq_true, bne_iff_ne] at hcounting
      exact hcounting.2
    refine ⟨haddress, ?_, hstale, hcontent⟩
    change (r.remaining - 1).toNat ≤ r.interval.toNat
    bv_omega
  case expire hinterval => exact ⟨haddress, Nat.zero_le _, fun h0 => absurd h0 hinterval, hcontent⟩
  case point b p hb hp =>
    obtain ⟨-, -, -, h1, h256, hblocks, -⟩ := (Record.ranges_of_bank hb).1 hr
    exact ⟨haddress, hcount, hstale, h1, h256, hblocks, hp⟩

theorem RecordStep.ranges (h : RecordStep s j r r') (hr : r.ranges) : r'.ranges := by
  cases h
  case same => exact hr
  case move h => exact h.ranges hr
  case unqueue m queue mark hm hq =>
    obtain ⟨haddress, hcount, hstale, h1, h8, hlen⟩ := (Record.ranges_of_mailbox hm).1 hr
    exact ⟨haddress, hcount, hstale, h1, h8, Nat.le_trans hq.length_le hlen⟩
  case post m k hm hroom =>
    obtain ⟨haddress, -, -, h1, h8, -⟩ := (Record.ranges_of_mailbox hm).1 hr
    exact ⟨haddress, Nat.le_refl _, fun _ => rfl, h1, h8, by simpa using hroom⟩

/-- A supervised record is stale exactly while its count is 0 (R151). -/
def Record.fresh (r : Record) : Prop := r.interval ≠ 0 → (r.stale = true ↔ r.remaining = 0)

/-- After a reload the count is the interval, which is not 0, and nothing is stale (R153). -/
theorem Record.fresh_reload (r : Record) : r.reload.fresh := fun h => by simpa [Record.reload] using h

theorem RecordMove.fresh (h : RecordMove s j r r') (hr : r.fresh) : r'.fresh := by
  cases h
  case reload | activate | resume => exact r.fresh_reload
  case quiesce | retire | point => exact hr
  case tick hcounting h1 =>
    intro hinterval
    have hpos : r.remaining ≠ 0 := by
      simp only [Record.counting, Bool.and_eq_true, bne_iff_ne] at hcounting
      exact hcounting.2
    have hnext : r.remaining - 1 ≠ 0 := by bv_omega
    have hnotStale : r.stale ≠ true := mt (hr hinterval).1 hpos
    exact iff_of_false hnotStale hnext
  case expire => exact fun _ => iff_of_true rfl rfl

theorem RecordStep.fresh (h : RecordStep s j r r') (hr : r.fresh) : r'.fresh := by
  cases h
  case same | unqueue => exact hr
  case move h => exact h.fresh hr
  case post => exact r.fresh_reload

end Stays

/-! ## The record INSTALL makes -/

section Install

variable {s : State} {q : InstallFields} {j : Slot}

/-- What R13 leaves of the fields of a BANK and of a MAILBOX. -/
theorem installBadParam_eq_false (h : installBadParam q = false) :
    (q.kindCode = 0 ∧ 1 ≤ q.size.toNat ∧ q.size.toNat ≤ 256) ∨
    (q.kindCode = 1 ∧ 1 ≤ q.depth.toNat ∧ q.depth.toNat ≤ 8) := by
  unfold installBadParam at h
  rw [Bool.or_eq_false_iff] at h
  obtain ⟨-, h⟩ := h
  split at h
  · rename_i hk
    simp only [Bool.or_eq_false_iff, beq_eq_false_iff_ne, decide_eq_false_iff_not] at h
    obtain ⟨⟨⟨h0, h256⟩, -⟩, -⟩ := h
    exact Or.inl ⟨hk, by bv_omega, by omega⟩
  · split at h
    · rename_i hk
      simp only [Bool.or_eq_false_iff, beq_eq_false_iff_ne, decide_eq_false_iff_not] at h
      obtain ⟨⟨h0, h8⟩, -⟩ := h
      exact Or.inr ⟨hk, by bv_omega, by omega⟩
    · cases h

/-- The masked bits of a stored address are 0 (R3). -/
theorem storedAddress_and_mask (address mask : Address) : storedAddress address mask &&& mask = 0 := by
  refine BitVec.eq_of_getLsbD_eq fun k hk => ?_
  rw [BitVec.getLsbD_and, getLsbD_storedAddress _ _ hk]
  cases mask.getLsbD k <;> simp

theorem installRecord_ranges (h : installCheck s q = .ok j) : (installRecord s q).ranges := by
  obtain ⟨hparam, -, -, -, hspace⟩ := installCheck_ok h
  refine ⟨storedAddress_and_mask _ _, Nat.le_refl _, fun _ => rfl, ?_⟩
  simp only [installRecord, installContent]
  rcases installBadParam_eq_false hparam with ⟨hk, h1, h256⟩ | ⟨hk, h1, h8⟩
  · rw [if_pos hk]
    have hlen : (installBlocks s q).length = (q.size.toNat + 15) / 16 := by
      rw [installBlocks, List.length_take, Nat.min_eq_left (hspace hk)]
      rfl
    exact ⟨h1, h256, hlen, Nat.zero_le _⟩
  · have hne : q.kindCode ≠ 0 := by rw [hk]; decide
    rw [if_neg hne]
    exact ⟨h1, h8, Nat.zero_le _⟩

theorem installRecord_fresh (s : State) (q : InstallFields) : (installRecord s q).fresh := fun h => by
  simpa [installRecord] using h

/-- A set named by its stored address intersects the same sets (R31). -/
theorem setsIntersect_storedAddress_right (a₁ m₁ a₂ m₂ : Address) :
    setsIntersect a₁ m₁ (storedAddress a₂ m₂) m₂ = setsIntersect a₁ m₁ a₂ m₂ := by
  rw [Bool.eq_iff_iff, setsIntersect_iff_exists_common, setsIntersect_iff_exists_common]
  simp only [inAddressSet_storedAddress]

theorem setsIntersect_comm (a₁ m₁ a₂ m₂ : Address) : setsIntersect a₁ m₁ a₂ m₂ = setsIntersect a₂ m₂ a₁ m₁ :=
  Bool.eq_iff_iff.2 ⟨setsIntersect_symm, setsIntersect_symm⟩

/-- Some record of equal specificity intersects the set (R14, R32). -/
theorem overlaps_iff {s : State} {address mask : Address} :
    overlaps s.table address mask = true ↔
      ∃ i r, s.record i = some r ∧ specificity r.mask = specificity mask ∧
        setsIntersect r.address r.mask address mask = true := by
  unfold overlaps
  rw [List.any_eq_true]
  constructor
  · rintro ⟨o, ho, hoverlap⟩
    cases o with
    | none => cases hoverlap
    | some r =>
      obtain ⟨n, hn, hget⟩ := Vector.mem_iff_getElem.1 (Vector.mem_toList_iff.1 ho)
      simp only [Bool.and_eq_true, beq_iff_eq] at hoverlap
      exact ⟨⟨n, hn⟩, r, hget, hoverlap⟩
  · rintro ⟨i, r, hr, hspec, hsets⟩
    refine ⟨some r, Vector.mem_toList_iff.2 (Vector.mem_iff_getElem.2 ⟨i.val, i.isLt, hr⟩), ?_⟩
    simp [hspec, hsets]

/-- An INSTALL that passes its checks meets no record of its specificity (R32). -/
theorem installRecord_disjoint (h : installCheck s q = .ok j) {i : Slot} {r : Record} (hr : s.record i = some r)
    (hspec : specificity r.mask = specificity (installRecord s q).mask) :
    setsIntersect r.address r.mask (installRecord s q).address (installRecord s q).mask = false := by
  obtain ⟨-, -, hoverlap, -, -⟩ := installCheck_ok h
  rw [installRecord, setsIntersect_storedAddress_right]
  have hspec : specificity r.mask = specificity (sevenBit q.mask) := hspec
  exact Bool.eq_false_iff.2 fun hsets =>
    Bool.eq_false_iff.1 hoverlap (overlaps_iff.2 ⟨i, r, hr, hspec, hsets⟩)

end Install

/-! ## The laws -/

theorem ofBody_recordLaw : OfBody RecordLaw := fun _ _ ⟨_, _, _, _, _, _, _⟩ h => h

theorem ofBody_overlapLaw : OfBody OverlapLaw := fun _ _ ⟨_, _, _, _, _, _, _⟩ h => h

theorem ofBody_freshnessLaw : OfBody FreshnessLaw := fun _ _ ⟨_, _, _, _, _, _, _⟩ h => h

/-- Each record after a step: what a step makes of the one before, or the one INSTALL fills its slot with. -/
theorem Change.record_cases {i : Instr} {s t : State} (h : Change i s t) {j : Slot} {r : Record}
    (hr : t.record j = some r) :
    (∃ r₀, s.record j = some r₀ ∧ RecordStep s j r₀ r) ∨
    ∃ q, installCheck s q = .ok j ∧ r = installRecord s q := by
  rcases h.slots with hkept | ⟨l, q, hok, rfl⟩
  · rcases hkept j with hfree | ⟨r₀, r', hr₀, hr', hstep⟩
    · rw [hr] at hfree
      cases hfree
    · rw [hr] at hr'
      cases hr'
      exact Or.inl ⟨r₀, hr₀, hstep⟩
  · rw [State.record_installAt] at hr
    split at hr
    · rename_i hj
      cases hr
      exact Or.inr ⟨q, hj ▸ hok, rfl⟩
    · exact Or.inl ⟨r, hr, .same⟩

theorem Change.recordLaw {i : Instr} {s t : State} (h : Change i s t) (hs : RecordLaw s) : RecordLaw t := by
  intro j r hr
  rcases h.record_cases hr with ⟨r₀, hr₀, hstep⟩ | ⟨q, hok, rfl⟩
  · exact hstep.ranges (hs j r₀ hr₀)
  · exact installRecord_ranges hok

theorem Change.freshnessLaw {i : Instr} {s t : State} (h : Change i s t) (hs : FreshnessLaw s) : FreshnessLaw t := by
  intro j r hr
  rcases h.record_cases hr with ⟨r₀, hr₀, hstep⟩ | ⟨q, hok, rfl⟩
  · exact hstep.fresh (hs j r₀ hr₀)
  · exact installRecord_fresh s q

theorem Change.overlapLaw {i : Instr} {s t : State} (h : Change i s t) (hs : OverlapLaw s) : OverlapLaw t := by
  rcases h.slots with hkept | ⟨l, q, hok, rfl⟩
  · intro j k r r' hr hr' hne hspec
    have back {j : Slot} {r : Record} (hr : t.record j = some r) :
        ∃ r₀, s.record j = some r₀ ∧ r.address = r₀.address ∧ r.mask = r₀.mask := by
      rcases hkept j with hfree | ⟨r₀, r₁, hr₀, hr₁, hstep⟩
      · rw [hr] at hfree
        cases hfree
      · rw [hr] at hr₁
        cases hr₁
        obtain ⟨haddress, hmask, -⟩ := hstep.sameFixedFields
        exact ⟨r₀, hr₀, haddress, hmask⟩
    obtain ⟨r₀, hr₀, ha, hm⟩ := back hr
    obtain ⟨r₀', hr₀', ha', hm'⟩ := back hr'
    rw [ha, hm, ha', hm']
    exact hs j k r₀ r₀' hr₀ hr₀' hne (by rw [← hm, ← hm', hspec])
  · intro j k r r' hr hr' hne hspec
    rw [State.record_installAt] at hr hr'
    split at hr
    · rename_i hj
      cases hr
      rw [if_neg fun hk => hne (hj.trans hk.symm)] at hr'
      rw [setsIntersect_comm]
      exact installRecord_disjoint hok hr' hspec.symm
    · split at hr'
      · cases hr'
        exact installRecord_disjoint hok hr hspec
      · exact hs j k r r' hr hr' hne hspec

/-- Settles O56: each law by what becomes of each record in a step. -/
theorem everyStepKeepsTheRecordLaws : Obligations.EveryStepKeepsTheRecordLaws := by
  constructor
  · intro s t hrec hoverlap hstep
    exact step_changes (ofBody_recordLaw.and ofBody_overlapLaw) (ofBody_recordLaw.and ofBody_overlapLaw)
      (fun i s t hc hs => ⟨hc.recordLaw hs.1, hc.overlapLaw hs.2⟩) ⟨hrec, hoverlap⟩ hstep
  · intro s t hfresh hstep
    exact step_changes ofBody_freshnessLaw ofBody_freshnessLaw (fun i s t hc hs => hc.freshnessLaw hs) hfresh hstep

end Sys2Proof.Machine

/-! Ownership: every block or buffer is free or owned by one slot, and the ways in which one slot's share changes
(R45, R98). -/

namespace Sys2Proof.Machine

/-! ## Shares -/

/-- Each of `n` things is in the ascending free pool or in the share of exactly one slot, once. -/
def Owned {n : Nat} (own : Slot → List (Fin n)) (free : List (Fin n)) : Prop :=
  free.Pairwise (· < ·) ∧
  (∀ i, (own i).Nodup) ∧
  (∀ i k, k ∈ own i → k ∉ free) ∧
  (∀ i j k, k ∈ own i → k ∈ own j → i = j) ∧
  (∀ k, k ∈ free ∨ ∃ i, k ∈ own i)

theorem blockLaw_iff_owned {s : State} : BlockLaw s ↔ Owned s.blocksOf s.freeBlocks := Iff.rfl

theorem bufferLaw_iff_owned {s : State} : BufferLaw s ↔ Owned s.queueOf s.freeBuffers := Iff.rfl

section Owned

variable {n : Nat} {own own' : Slot → List (Fin n)} {free free' : List (Fin n)} {j : Slot}

/-- One slot and the pool exchange members: what the two hold together stays. -/
theorem Owned.exchange (h : Owned own free) (hother : ∀ i, i ≠ j → own' i = own i) (hrising : free'.Pairwise (· < ·))
    (hnodup : (own' j).Nodup) (hdisjoint : ∀ k, k ∈ own' j → k ∉ free')
    (hmem : ∀ k, (k ∈ own' j ∨ k ∈ free') ↔ (k ∈ own j ∨ k ∈ free)) : Owned own' free' := by
  obtain ⟨-, hown, hfree, honce, hall⟩ := h
  have houtside {i : Slot} (hi : i ≠ j) {k : Fin n} (hk : k ∈ own i) : ¬(k ∈ own' j ∨ k ∈ free') := by
    rw [hmem]
    exact fun hk' => hk'.elim (fun hj => hi (honce i j k hk hj)) (hfree i k hk)
  refine ⟨hrising, fun i => ?_, fun i k hk => ?_, fun i l k hi hl => ?_, fun k => ?_⟩
  · by_cases hi : i = j
    · exact hi ▸ hnodup
    · exact hother i hi ▸ hown i
  · by_cases hi : i = j
    · exact hdisjoint k (hi ▸ hk)
    · rw [hother i hi] at hk
      exact fun hkf => houtside hi hk (Or.inr hkf)
  · by_cases hij : i = j
    · by_cases hlj : l = j
      · rw [hij, hlj]
      · rw [hother l hlj] at hl
        exact absurd (Or.inl (hij ▸ hi)) (houtside hlj hl)
    · rw [hother i hij] at hi
      by_cases hlj : l = j
      · exact absurd (Or.inl (hlj ▸ hl)) (houtside hij hi)
      · rw [hother l hlj] at hl
        exact honce i l k hi hl
  · rcases hall k with hk | ⟨i, hk⟩
    · exact ((hmem k).2 (Or.inr hk)).symm.imp_right fun hk => ⟨j, hk⟩
    · by_cases hi : i = j
      · exact ((hmem k).2 (Or.inl (hi ▸ hk))).symm.imp_right fun hk => ⟨j, hk⟩
      · exact Or.inr ⟨i, hother i hi ▸ hk⟩

/-- A slot keeps part of its share and puts the rest back into the pool. -/
theorem Owned.release (h : Owned own free) {kept released : List (Fin n)} (hother : ∀ i, i ≠ j → own' i = own i)
    (hkept : own' j = kept) (hnodup : kept.Nodup) (hdisjoint : ∀ k, k ∈ kept → k ∉ released)
    (hmem : ∀ k, k ∈ own j ↔ k ∈ kept ∨ k ∈ released) : Owned own' (poolReturn released free) := by
  have hrising := h.1
  have hfree := h.2.2.1
  refine h.exchange hother (poolReturn_rising hrising) (hkept ▸ hnodup) (fun k hk => ?_) fun k => ?_
  · rw [hkept] at hk
    rw [mem_poolReturn, not_or]
    exact ⟨hdisjoint k hk, hfree j k ((hmem k).2 (Or.inl hk))⟩
  · rw [hkept, mem_poolReturn, hmem, or_assoc]

/-- A slot puts its whole share back into the pool. -/
theorem Owned.releaseAll (h : Owned own free) (hother : ∀ i, i ≠ j → own' i = own i) (hnone : own' j = []) :
    Owned own' (poolReturn (own j) free) :=
  h.release hother hnone .nil (fun _ hk => absurd hk List.not_mem_nil) fun k => by simp

/-- A slot takes the lowest-numbered members of the pool. -/
theorem Owned.take (h : Owned own free) {taken rest : List (Fin n)} (hother : ∀ i, i ≠ j → own' i = own i)
    (hpool : free = taken ++ rest) (hown : own' j = own j ++ taken) : Owned own' rest := by
  obtain ⟨hrising, hnodup, hfree, -, -⟩ := id h
  rw [hpool] at hrising
  obtain ⟨htaken, hrest, hless⟩ := List.pairwise_append.1 hrising
  refine h.exchange hother hrest ?_ (fun k hk hkrest => ?_) fun k => ?_
  · rw [hown]
    refine (hnodup j).append (htaken.imp fun hlt => Fin.ne_of_lt hlt) fun k hk hkt => ?_
    exact hfree j k hk (hpool ▸ List.mem_append_left rest hkt)
  · rw [hown, List.mem_append] at hk
    rcases hk with hk | hk
    · exact hfree j k hk (hpool ▸ List.mem_append_right taken hkrest)
    · exact Fin.ne_of_lt (hless k hk k hkrest) rfl
  · rw [hown, hpool, List.mem_append, List.mem_append, or_assoc]

/-- Nothing is owned, and the whole pool is free. -/
theorem Owned.all_free (h : ∀ i, own i = []) : Owned own (List.finRange n) := by
  refine ⟨List.pairwise_lt_finRange n, fun i => ?_, fun i k hk => ?_, fun i j k hk => ?_, fun k => ?_⟩
  · rw [h]
    exact .nil
  · rw [h] at hk
    cases hk
  · rw [h] at hk
    cases hk
  · exact Or.inl (List.mem_finRange k)

/-- Shares that are the same, slot by slot. -/
theorem Owned.congr (h : Owned own free) (hown : ∀ i, own' i = own i) : Owned own' free := funext hown ▸ h

end Owned

/-! ## What a record owns -/

/-- The blocks of a slot with this record (R45). -/
def recordBlocks : Option Record → List BlockNo
  | some r =>
    match r.content with
    | .bank b => b.blocks
    | .mailbox _ => []
  | none => []

/-- The queue of a slot with this record (R98). -/
def recordQueue : Option Record → List BufferNo
  | some r =>
    match r.content with
    | .bank _ => []
    | .mailbox m => m.queue
  | none => []

theorem State.blocksOf_eq (s : State) (j : Slot) : s.blocksOf j = recordBlocks (s.record j) := rfl

theorem State.queueOf_eq (s : State) (j : Slot) : s.queueOf j = recordQueue (s.record j) := rfl

theorem recordBlocks_of_bank {r : Record} {b : Bank} (h : r.content = .bank b) : recordBlocks (some r) = b.blocks := by
  simp [recordBlocks, h]

theorem recordBlocks_of_mailbox {r : Record} {m : Mailbox} (h : r.content = .mailbox m) : recordBlocks (some r) = [] := by
  simp [recordBlocks, h]

theorem recordQueue_of_bank {r : Record} {b : Bank} (h : r.content = .bank b) : recordQueue (some r) = [] := by
  simp [recordQueue, h]

theorem recordQueue_of_mailbox {r : Record} {m : Mailbox} (h : r.content = .mailbox m) :
    recordQueue (some r) = m.queue := by
  simp [recordQueue, h]

theorem State.blocksOf_freeRecord (s : State) (j l : Slot) :
    (s.freeRecord j).blocksOf l = if l = j then [] else s.blocksOf l := by
  rw [State.blocksOf_eq, State.record_freeRecord]
  split <;> rfl

theorem State.queueOf_freeRecord (s : State) (j l : Slot) :
    (s.freeRecord j).queueOf l = if l = j then [] else s.queueOf l := by
  rw [State.queueOf_eq, State.record_freeRecord]
  split <;> rfl

theorem SameFixedFields.recordBlocks {r r' : Record} (h : SameFixedFields r r') :
    recordBlocks (some r') = recordBlocks (some r) := by
  obtain ⟨-, -, -, -, -, h⟩ := h
  cases hr : r.content with
  | bank b =>
    cases hr' : r'.content with
    | bank d =>
      rw [hr, hr'] at h
      rw [recordBlocks_of_bank hr, recordBlocks_of_bank hr']
      exact h.2.2.2.2
    | mailbox m =>
      rw [hr, hr'] at h
      exact h.elim
  | mailbox m =>
    cases hr' : r'.content with
    | bank d =>
      rw [hr, hr'] at h
      exact h.elim
    | mailbox n => rw [recordBlocks_of_mailbox hr, recordBlocks_of_mailbox hr']

/-- A record replaced by one with the same queue. -/
theorem queueOf_of_set {s t : State} {j : Slot} {r r' : Record} (hr : s.record j = some r)
    (ht : t.table = s.table.set j.val (some r') j.isLt) (h : recordQueue (some r') = recordQueue (some r)) (l : Slot) :
    t.queueOf l = s.queueOf l := by
  have ht : t.record l = (s.setRecord j (some r')).record l := State.record_congr ht l
  rw [State.queueOf_eq, State.queueOf_eq, ht, State.record_setRecord]
  split
  · rename_i hl
    rw [hl, hr, h]
  · rfl

/-- A record replaced: the shares of the other slots stay. -/
theorem queueOf_set_ne {s t : State} {j : Slot} {o : Option Record} (ht : t.table = s.table.set j.val o j.isLt)
    {l : Slot} (hl : l ≠ j) : t.queueOf l = s.queueOf l := by
  have ht : t.record l = (s.setRecord j o).record l := State.record_congr ht l
  rw [State.queueOf_eq, ht, State.record_setRecord_ne s hl, State.queueOf_eq]

theorem queueOf_set_same {s t : State} {j : Slot} {o : Option Record} (ht : t.table = s.table.set j.val o j.isLt) :
    t.queueOf j = recordQueue o := by
  have ht : t.record j = (s.setRecord j o).record j := State.record_congr ht j
  rw [State.queueOf_eq, ht, State.record_setRecord_same]

theorem SameRecords.blocksOf {t u : State} (h : SameRecords t u) (j : Slot) : u.blocksOf j = t.blocksOf j := by
  rw [State.blocksOf_eq, h.record, State.blocksOf_eq]

theorem SameRecords.queueOf {t u : State} (h : SameRecords t u) (j : Slot) : u.queueOf j = t.queueOf j := by
  rw [State.queueOf_eq, h.record, State.queueOf_eq]

theorem SameRecords.blockLaw {t u : State} (h : SameRecords t u) (ht : BlockLaw t) : BlockLaw u := by
  rw [blockLaw_iff_owned, h.freeBlocks]
  exact Owned.congr ht h.blocksOf

theorem SameRecords.bufferLaw {t u : State} (h : SameRecords t u) (ht : BufferLaw t) : BufferLaw u := by
  rw [bufferLaw_iff_owned, h.freeBuffers]
  exact Owned.congr ht h.queueOf

theorem blockLaw_freeRecord {s : State} (h : BlockLaw s) (j : Slot) : BlockLaw (s.freeRecord j) := by
  rw [blockLaw_iff_owned]
  have hpool : (s.freeRecord j).freeBlocks = poolReturn (s.blocksOf j) s.freeBlocks := by rw [State.freeRecord_eq]
  rw [hpool]
  exact Owned.releaseAll h (fun l hl => by rw [State.blocksOf_freeRecord, if_neg hl])
    (by rw [State.blocksOf_freeRecord, if_pos rfl])

theorem bufferLaw_freeRecord {s : State} (h : BufferLaw s) (j : Slot) : BufferLaw (s.freeRecord j) := by
  rw [bufferLaw_iff_owned]
  have hpool : (s.freeRecord j).freeBuffers = poolReturn (s.queueOf j) s.freeBuffers := by rw [State.freeRecord_eq]
  rw [hpool]
  exact Owned.releaseAll h (fun l hl => by rw [State.queueOf_freeRecord, if_neg hl])
    (by rw [State.queueOf_freeRecord, if_pos rfl])

end Sys2Proof.Machine

/-! The law of the blocks and the store's canonical form over every step (R44, R45). -/

namespace Sys2Proof.Machine

/-! ## The blocks -/

theorem RecordStep.recordBlocks {s : State} {j : Slot} {r r' : Record} (h : RecordStep s j r r') :
    recordBlocks (some r') = recordBlocks (some r) := h.sameFixedFields.recordBlocks

/-- A record that stays keeps its blocks. -/
theorem blockLaw_of_set {s t : State} {j : Slot} {r r' : Record} (hr : s.record j = some r)
    (ht : t.table = s.table.set j.val (some r') j.isLt) (hfree : t.freeBlocks = s.freeBlocks) (h : RecordStep s j r r')
    (hs : BlockLaw s) : BlockLaw t := by
  rw [blockLaw_iff_owned, hfree]
  refine Owned.congr hs fun l => ?_
  rcases slotKept_of_set hr ht h l with hl | ⟨r₀, r₁, hr₀, hr₁, hstep⟩
  · have ht : t.record l = (s.setRecord j (some r')).record l := State.record_congr ht l
    rw [State.record_setRecord] at ht
    split at ht
    · rw [hl] at ht
      cases ht
    · rw [State.blocksOf_eq, State.blocksOf_eq, ht]
  · rw [State.blocksOf_eq, State.blocksOf_eq, hr₀, hr₁, hstep.recordBlocks]

theorem blockLaw_clearBlocks (s : State) : BlockLaw s.clearBlocks := by
  rw [blockLaw_iff_owned]
  exact Owned.all_free fun i => by rw [State.blocksOf_eq, State.record_clearBlocks]; rfl

theorem blockLaw_settleHead {s : State} (h : BlockLaw s) (c : Context) (cause : EndCause) :
    BlockLaw (s.settleHead c cause) := by
  rcases s.settleHead_cases c cause with he | ⟨r, m, k, hr, hm, -, he⟩ <;> rw [he]
  · exact h
  · exact blockLaw_of_set hr rfl rfl (.unqueue m _ false hm List.erase_sublist) h

theorem blockLaw_endTransaction {s : State} {c : Context} (hc : s.engine.ctx = some c) (h : BlockLaw s)
    (cause : EndCause) : BlockLaw (s.endTransaction cause) := by
  have hhead := blockLaw_settleHead h c cause
  rcases State.endTransaction_records hc cause with ⟨-, hsame⟩ | ⟨-, hsame⟩
  · exact hsame.blockLaw hhead
  · exact hsame.blockLaw (blockLaw_freeRecord hhead c.slot)

theorem installContent_of_bank {s : State} {q : InstallFields} (h : q.kindCode = 0) :
    installContent s q = .bank { size := q.size.toNat, fill := q.fill, policy := installPolicy q
                                 fetchOnRead := q.fetchOnRead, blocks := installBlocks s q, pointer := 0 } := if_pos h

theorem installContent_of_mailbox {s : State} {q : InstallFields} (h : q.kindCode ≠ 0) :
    installContent s q = .mailbox { depth := q.depth.toNat, acceptInbound := q.acceptInbound
                                    queue := [], headFlushed := false } := if_neg h

theorem State.installAt_of_bank {s : State} {q : InstallFields} (h : q.kindCode = 0) (j : Slot) :
    s.installAt j q = { s.setRecord j (some (installRecord s q)) with
      freeBlocks := s.freeBlocks.drop (blocksNeeded q.size.toNat)
      store := windowWrite s.store (installBlocks s q) 0 (List.replicate q.size.toNat q.fill) } := if_pos h

theorem State.installAt_of_mailbox {s : State} {q : InstallFields} (h : q.kindCode ≠ 0) (j : Slot) :
    s.installAt j q = s.setRecord j (some (installRecord s q)) := if_neg h

/-- INSTALL gives a bank the lowest-numbered free blocks, and a mailbox none (R46). -/
theorem blockLaw_installAt {s : State} {q : InstallFields} {j : Slot} (hok : installCheck s q = .ok j) (h : BlockLaw s) :
    BlockLaw (s.installAt j q) := by
  obtain ⟨-, -, -, hfree, -⟩ := installCheck_ok hok
  have hnone : s.blocksOf j = [] := by rw [State.blocksOf_eq, hfree]; rfl
  have hother (l : Slot) (hl : l ≠ j) : (s.installAt j q).blocksOf l = s.blocksOf l := by
    rw [State.blocksOf_eq, State.record_installAt, if_neg hl, State.blocksOf_eq]
  have hslot : (s.installAt j q).blocksOf j = recordBlocks (some (installRecord s q)) := by
    rw [State.blocksOf_eq, State.record_installAt, if_pos rfl]
  rw [blockLaw_iff_owned]
  by_cases hk : q.kindCode = 0
  · have hpool : (s.installAt j q).freeBlocks = s.freeBlocks.drop (blocksNeeded q.size.toNat) := by
      rw [State.installAt_of_bank hk]
    rw [hpool]
    refine Owned.take h hother (List.take_append_drop (blocksNeeded q.size.toNat) _).symm ?_
    rw [hslot, hnone, recordBlocks_of_bank (r := installRecord s q) (installContent_of_bank hk)]
    rfl
  · have hpool : (s.installAt j q).freeBlocks = s.freeBlocks := by
      rw [State.installAt_of_mailbox hk, State.setRecord_freeBlocks]
    rw [hpool]
    refine Owned.congr h fun l => ?_
    by_cases hl : l = j
    · rw [hl, hslot, hnone, recordBlocks_of_mailbox (r := installRecord s q) (installContent_of_mailbox hk)]
    · exact hother l hl

theorem Change.blockLaw {i : Instr} {s t : State} (h : Change i s t) (hs : BlockLaw s) : BlockLaw t := by
  cases h
  case idle | meter | grant | engine | pin | context => exact hs
  case clear => exact blockLaw_clearBlocks s
  case point c d e r b p _ hr hb hp => exact blockLaw_of_set hr rfl rfl (.move (.point b p hb hp)) hs
  case apply v c d e r b _ _ hr hb _ hp => exact blockLaw_of_set hr rfl rfl (.move (.point b _ hb hp)) hs
  case record j r r' q hr hm _ => exact blockLaw_of_set hr rfl rfl (.move hm) hs
  case keepLoad j r b offset data hr hret _ _ _ _ _ _ => exact blockLaw_of_set hr rfl rfl (.move (.reload hret)) hs
  case load j r b offset data hr hret _ _ => exact blockLaw_of_set hr rfl rfl (.move (.reload hret)) hs
  case fetch c d e r b offset data _ _ hr hret _ => exact blockLaw_of_set hr rfl rfl (.move (.reload hret)) hs
  case post j r m k rest msg hr _ hm hroom _ _ _ => exact blockLaw_of_set hr rfl rfl (.post m k hm hroom) hs
  case flushAll j r m hr hm _ =>
    exact blockLaw_of_set hr rfl rfl (.unqueue m [] m.headFlushed hm (List.nil_sublist _)) hs
  case flushAround j r m k hr hm _ =>
    exact blockLaw_of_set hr rfl rfl (.unqueue m _ true hm List.filter_sublist) hs
  case install j q hok => exact blockLaw_installAt hok hs
  case free j _ => exact blockLaw_freeRecord hs j
  case finish cause c q hc _ _ => exact blockLaw_endTransaction hc hs cause
  case finishRetire c r hc _ _ _ => exact blockLaw_freeRecord (blockLaw_endTransaction hc hs .retire) c.slot

/-! ## The store -/

theorem State.installAt_store (s : State) (j : Slot) (q : InstallFields) :
    (s.installAt j q).store =
      if q.kindCode = 0 then windowWrite s.store (installBlocks s q) 0 (List.replicate q.size.toNat q.fill)
      else s.store := by
  unfold State.installAt
  split <;> rfl

/-- The state before step 3: the store and the Update Hold are still those of the transaction. -/
theorem State.settleHead_settleReservation (s : State) (c : Context) (cause : EndCause) :
    ((s.settleReservation c cause).settleHead c cause).store = s.store ∧
      ((s.settleReservation c cause).settleHead c cause).updateHold = s.updateHold := by
  rw [State.settleHead_frame, State.settleReservation_frame]
  exact ⟨rfl, rfl⟩

/-- Step 2 does not change the state of a record. -/
theorem State.retiring_settleHead (s : State) (c : Context) (cause : EndCause) (j : Slot) :
    (s.settleHead c cause).retiring j = s.retiring j := by
  rcases s.settleHead_cases c cause with h | ⟨r, m, k, hr, hm, -, h⟩ <;> rw [h]
  have ht : (s.removeServed c.slot r m k).record j = (s.setContent c.slot r
    (.mailbox { m with queue := m.queue.erase k, headFlushed := false })).record j := rfl
  by_cases hj : j = c.slot
  · rw [State.retiring, ht, State.record_setContent, if_pos hj, State.retiring, hj, hr]
  · rw [State.retiring, ht, State.record_setContent, if_neg hj, State.retiring]

/-- The store after step 3 (R58, R59). -/
theorem State.settleUpdateHold_store (s : State) (c : Context) (cause : EndCause) :
    (s.settleUpdateHold c cause).store =
      if cause = .retire ∨ s.retiring c.slot = true then s.store
      else s.updateHold.foldl (applyHeld s.table) s.store := by
  unfold State.settleUpdateHold
  simp only [Bool.or_eq_true, decide_eq_true_eq]
  split <;> rfl

/-- The store after the end of a transaction: the Update Hold applied, or discarded by RETIRE and for a RETIRING
record (R58, R59). -/
theorem State.endTransaction_store {s : State} {c : Context} (hc : s.engine.ctx = some c) (cause : EndCause) :
    (s.endTransaction cause).store =
      if cause = .retire ∨ s.retiring c.slot = true then s.store
      else s.updateHold.foldl (applyHeld (s.settleHead c cause).table) s.store := by
  have hsame := (sameRecords_settleReservation s c cause).settleHead c cause
  have hret : ((s.settleReservation c cause).settleHead c cause).retiring c.slot = s.retiring c.slot := by
    rw [hsame.retiring, State.retiring_settleHead]
  obtain ⟨hstore, hhold⟩ := s.settleHead_settleReservation c cause
  have hlast : (s.endTransaction cause).store =
      (((s.settleReservation c cause).settleHead c cause).settleUpdateHold c cause).store := by
    rw [State.endTransaction_eq, State.unpin_some hc, State.settleRetirement_frame]
  rw [hlast, State.settleUpdateHold_store, hret, hstore, hhold, hsame.table]

theorem endTransaction_store_wf {s : State} {c : Context} (hc : s.engine.ctx = some c) (h : s.store.wf = true)
    (cause : EndCause) : (s.endTransaction cause).store.wf = true := by
  rw [State.endTransaction_store hc]
  split
  · exact h
  · exact applyHeld_foldl_wf h _ _

theorem Change.store_wf {i : Instr} {s t : State} (h : Change i s t) (hs : s.store.wf = true) : t.store.wf = true := by
  cases h
  case idle | meter | grant | engine | pin | context | point | record | keepLoad => exact hs
  case post | flushAll | flushAround => exact hs
  case clear => rfl
  case apply | load | fetch => exact windowWrite_wf hs _ _ _
  case install j q _ =>
    rw [State.installAt_store]
    split
    · exact windowWrite_wf hs _ _ _
    · exact hs
  case free j _ => rwa [State.freeRecord_store]
  case finish cause c q hc _ _ => exact endTransaction_store_wf hc hs cause
  case finishRetire c r hc _ _ _ =>
    rw [State.freeRecord_store]
    exact endTransaction_store_wf hc hs .retire

theorem ofBody_blockLaw : OfBody BlockLaw := fun _ _ ⟨_, _, _, _, _, _, _⟩ h => h

theorem ofBody_store_wf : OfBody fun s => s.store.wf = true := fun _ _ ⟨_, _, _, _, _, _, _⟩ h => h

/-- Settles O54: only INSTALL and the freeing of a record move blocks, and every write keeps the canonical form. -/
theorem everyStepKeepsTheBlockLaw : Obligations.EveryStepKeepsTheBlockLaw := fun _ _ hwf hblocks hstep =>
  step_changes (ofBody_store_wf.and ofBody_blockLaw) (ofBody_store_wf.and ofBody_blockLaw)
    (fun _ _ _ hc hs => ⟨hc.store_wf hs.1, hc.blockLaw hs.2⟩) ⟨hwf, hblocks⟩ hstep

end Sys2Proof.Machine

/-! The law of the Notice Queue over every step (R136, R143). -/

namespace Sys2Proof.Machine

/-! ## The bounds of the queue -/

/-- The occupancies and the credit within their bounds (R136, R143). -/
structure NoticeQueue.Bounded (q : NoticeQueue) : Prop where
  total : q.completed.length + q.reservation.toNat ≤ 32
  data : q.completed.countP Notice.isData + q.reservation.toNat ≤ 24
  credit : q.credit ≤ 16

theorem noticeLaw_iff {s : State} : NoticeLaw s ↔ s.notices.Bounded ∧ s.notices.reservation = s.contextReserved :=
  ⟨fun ⟨htotal, hdata, hres, hcredit⟩ => ⟨⟨htotal, hdata, hcredit⟩, hres⟩,
    fun ⟨⟨htotal, hdata, hcredit⟩, hres⟩ => ⟨htotal, hdata, hres, hcredit⟩⟩

theorem NoticeQueue.reset_bounded : NoticeQueue.reset.Bounded := ⟨by decide, by decide, by decide⟩

section Queue

variable {p q : NoticeQueue}

theorem Raised.reservation (h : Raised p q) : q.reservation = p.reservation := by
  rcases h with rfl | ⟨n, -, rfl⟩
  · rfl
  · exact p.raise_reservation n

/-- An event notice joins only where it has room, and is none of the data notices (R138). -/
theorem Raised.bounded (h : Raised p q) (hp : p.Bounded) : q.Bounded := by
  rcases h with rfl | ⟨n, hn, rfl⟩
  · exact hp
  · obtain ⟨-, hdata, hcredit⟩ := id hp
    rcases p.raise_cases n with ⟨hroom, h⟩ | ⟨-, h⟩ <;> rw [h]
    · refine ⟨?_, ?_, hcredit⟩
      · simp only [NoticeQueue.total] at hroom
        simp only [List.length_append, List.length_singleton]
        omega
      · simpa [hn] using hdata
    · exact ⟨hp.total, hdata, hcredit⟩

theorem Metered.bounded (h : Metered p q) (hp : p.Bounded) : q.Bounded := by
  obtain ⟨hcompleted, hres, hmeter⟩ := h
  obtain ⟨htotal, hdata, hcredit⟩ := hp
  have hlen : q.completed.length ≤ p.completed.length ∧
      q.completed.countP Notice.isData ≤ p.completed.countP Notice.isData := by
    rcases hcompleted with h | h <;> rw [h]
    · exact ⟨Nat.le_refl _, Nat.le_refl _⟩
    · exact ⟨by simp, (List.tail_sublist _).countP_le⟩
  exact ⟨by rw [hres]; omega, by rw [hres]; omega, by omega⟩

/-- The reservation is granted only where it fits (R136, R141). -/
theorem NoticeQueue.Bounded.reserve (hp : p.Bounded) (h : p.canReserve = true) : p.reserve.Bounded := by
  obtain ⟨hnone, hdata, htotal⟩ := p.canReserve_iff.1 h
  simp only [NoticeQueue.dataTotal, NoticeQueue.total, hnone, Bool.toNat_false] at hdata htotal
  exact ⟨htotal, hdata, hp.credit⟩

/-- Completing the reservation does not change the occupancies (R141). -/
theorem NoticeQueue.Bounded.complete (hp : p.Bounded) (h : p.reservation = true) (n : Notice) :
    (p.complete n).Bounded := by
  obtain ⟨htotal, hdata, hcredit⟩ := hp
  rw [h, Bool.toNat_true] at htotal hdata
  have hone : [n].countP Notice.isData ≤ 1 := List.countP_le_length
  refine ⟨?_, ?_, hcredit⟩ <;> simp only [NoticeQueue.complete, Bool.toNat_false]
  · simpa using htotal
  · rw [List.countP_append]
    omega

theorem NoticeQueue.Bounded.release (hp : p.Bounded) : p.release.Bounded := by
  obtain ⟨htotal, hdata, hcredit⟩ := hp
  exact ⟨Nat.le_trans (Nat.le_add_right _ _) htotal, Nat.le_trans (Nat.le_add_right _ _) hdata, hcredit⟩

end Queue

/-! ## The end of a transaction -/

/-- The Notice Queue after the end of a transaction: step 1, and RETIRED when a record was RETIRING (R25, R77). -/
theorem State.endTransaction_notices {s : State} {c : Context} (hc : s.engine.ctx = some c) (cause : EndCause) :
    Raised (s.settleReservation c cause).notices (s.endTransaction cause).notices := by
  have hthree : (((s.settleReservation c cause).settleHead c cause).settleUpdateHold c cause).notices =
      (s.settleReservation c cause).notices := by
    rw [State.settleUpdateHold_frame, State.settleHead_frame]
  rw [State.endTransaction_eq, State.unpin_some hc, ← hthree]
  rcases State.settleRetirement_cases
    (((s.settleReservation c cause).settleHead c cause).settleUpdateHold c cause) c with
    ⟨-, h⟩ | ⟨r, -, -, h⟩ <;> rw [h]
  · exact .refl _
  · simp only [State.raise_notices, State.freeRecord_notices]
    exact .raise _ rfl

/-- Step 1 leaves no reservation, and keeps the bounds (R141). -/
theorem settleReservation_bounded {s : State} {c : Context} (hres : s.notices.reservation = c.reserved)
    (h : s.notices.Bounded) (cause : EndCause) :
    (s.settleReservation c cause).notices.Bounded ∧ (s.settleReservation c cause).notices.reservation = false := by
  rcases s.settleReservation_cases c cause with ⟨hn, he⟩ | ⟨hn, r, -, -, -, he⟩ | ⟨hn, he⟩ <;> rw [he]
  · exact ⟨h, hres.trans hn⟩
  · exact ⟨h.complete (hres.trans hn) _, rfl⟩
  · exact ⟨h.release, rfl⟩

/-- No context is left by the end of a transaction (R77). -/
theorem State.endTransaction_ctx {s : State} {c : Context} (hc : s.engine.ctx = some c) (cause : EndCause) :
    (s.endTransaction cause).engine.ctx = none := by
  rw [State.endTransaction_engine, Engine.afterEnd_ctx, State.unpin_engine hc]

theorem State.contextReserved_of_ctx {s : State} {c : Context} (h : s.engine.ctx = some c) :
    s.contextReserved = c.reserved := by
  rw [State.contextReserved, h]

theorem State.contextReserved_of_none {s : State} (h : s.engine.ctx = none) : s.contextReserved = false := by
  rw [State.contextReserved, h]

theorem endTransaction_noticeLaw {s : State} {c : Context} (hc : s.engine.ctx = some c) (h : NoticeLaw s)
    (cause : EndCause) :
    (s.endTransaction cause).notices.Bounded ∧ (s.endTransaction cause).notices.reservation = false := by
  obtain ⟨hb, hres⟩ := noticeLaw_iff.1 h
  rw [State.contextReserved_of_ctx hc] at hres
  obtain ⟨hb, hnone⟩ := settleReservation_bounded hres hb cause
  have hraised := State.endTransaction_notices hc cause
  exact ⟨hraised.bounded hb, hraised.reservation.trans hnone⟩

/-! ## Every step -/

/-- In ADDRESS nothing is pinned (R74). -/
theorem EngineLaw.ctx_of_address {s : State} (h : EngineLaw s) (hphase : s.engine.phase = .address) :
    s.engine.ctx = none := by
  obtain ⟨hctx, -⟩ := h
  rw [hphase] at hctx
  exact Option.isNone_iff_eq_none.1 (by simpa [phasePins] using hctx)

/-- A move of the context keeps what it says of the reservation. -/
theorem Continues.contextReserved {s : State} {c d : Context} {e : Engine} (h : Continues s c e d) :
    e.ctx.map Context.reserved = s.engine.ctx.map Context.reserved := by
  rw [h.ctx, h.next, Option.map_some, Option.map_some, h.move.reserved]

theorem State.contextReserved_eq (s : State) : s.contextReserved = ((s.engine.ctx.map Context.reserved).getD false) := by
  unfold State.contextReserved
  cases s.engine.ctx <;> rfl

theorem Change.noticeLaw {i : Instr} {s t : State} (h : Change i s t) (he : EngineLaw s) (hs : NoticeLaw s) :
    NoticeLaw t := by
  obtain ⟨hb, hres⟩ := noticeLaw_iff.1 hs
  rw [noticeLaw_iff]
  cases h
  case idle | load | keepLoad | post | flushAll | flushAround => exact ⟨hb, hres⟩
  case clear => exact ⟨NoticeQueue.reset_bounded, rfl⟩
  case meter q hq => exact ⟨hq.bounded hb, hq.reservation.trans hres⟩
  case grant c r p q e hc _ _ _ hp hcan hq _ hnext _ =>
    refine ⟨hq.bounded ((hp.bounded hb).reserve hcan), ?_⟩
    rw [State.contextReserved_of_ctx hnext]
    exact hq.reservation
  case engine e q hctx _ hq =>
    refine ⟨hq.bounded hb, hq.reservation.trans (hres.trans ?_)⟩
    rw [State.contextReserved_eq, State.contextReserved_eq, hctx]
  case pin j r d reason reserved e q hphase _ _ hnext hq =>
    rw [State.contextReserved_of_none (he.ctx_of_address hphase)] at hres
    rw [State.contextReserved_of_ctx hnext]
    rcases hq with ⟨rfl, hcan, rfl⟩ | ⟨rfl, hq⟩
    · exact ⟨hb.reserve hcan, rfl⟩
    · exact ⟨hq.bounded hb, hq.reservation.trans hres⟩
  case context c d e hc | point c d e r b p hc _ _ _ | apply v c d e r b hc _ _ _ _ _ | fetch c d e r b o w hc _ _ _ _ =>
    refine ⟨hb, hres.trans ?_⟩
    rw [State.contextReserved_eq, State.contextReserved_eq]
    exact congrArg (Option.getD · false) hc.contextReserved.symm
  case record j r r' q _ _ hq => exact ⟨hq.bounded hb, hq.reservation.trans hres⟩
  case install j q _ =>
    unfold State.installAt
    split <;> exact ⟨hb, hres⟩
  case free j _ =>
    rw [State.freeRecord_notices, State.contextReserved_eq, State.freeRecord_engine, ← State.contextReserved_eq]
    exact ⟨hb, hres⟩
  case finish cause c q hc _ hq =>
    obtain ⟨hb, hnone⟩ := endTransaction_noticeLaw hc hs cause
    have hctx : (s.endTransaction cause).engine.ctx = none := State.endTransaction_ctx hc cause
    exact ⟨hq.bounded hb, (hq.reservation.trans hnone).trans (State.contextReserved_of_none hctx).symm⟩
  case finishRetire c r hc _ _ _ =>
    rw [State.contextReserved_eq, State.freeRecord_notices, State.freeRecord_engine, State.endTransaction_ctx hc]
    exact endTransaction_noticeLaw hc hs .retire

theorem ofBody_engineLaw : OfBody EngineLaw := fun _ _ ⟨_, _, _, _, _, _, _⟩ h => h

theorem ofBody_noticeLaw : OfBody NoticeLaw := fun _ _ ⟨_, _, _, _, _, _, _⟩ h => h

/-- Settles O53: every change of the queue and of the context's reservation keeps the bounds. -/
theorem everyStepKeepsTheNoticeQueueLaw : Obligations.EveryStepKeepsTheNoticeQueueLaw := fun _ _ he hn hstep =>
  step_keeps_law ofBody_engineLaw ofBody_noticeLaw (fun _ _ _ hc he hn => hc.noticeLaw he hn) he hn hstep

end Sys2Proof.Machine

/-! The laws of the Mailbox Unit over every step: the buffers, the served message, the messages' lengths and the
head-flushed mark (R98, R100, R104, R112). -/

namespace Sys2Proof.Machine

/-! ## The queues -/

theorem RecordMove.recordQueue {s : State} {j : Slot} {r r' : Record} (h : RecordMove s j r r') :
    recordQueue (some r') = recordQueue (some r) := by
  cases h
  case point b p hb _ => simp [Machine.recordQueue, hb]
  all_goals rfl

/-- The queue of a bank's slot is empty, wherever its pointer stands. -/
theorem recordQueue_point {r : Record} {b d : Bank} (hb : r.content = .bank b) :
    recordQueue (some { r with content := .bank d }) = recordQueue (some r) := by
  simp [recordQueue, hb]

theorem State.queueOf_installAt {s : State} {q : InstallFields} {j : Slot} (hok : installCheck s q = .ok j) (l : Slot) :
    (s.installAt j q).queueOf l = s.queueOf l := by
  obtain ⟨-, -, -, hfree, -⟩ := installCheck_ok hok
  rw [State.queueOf_eq, State.record_installAt, State.queueOf_eq]
  split
  · rename_i hl
    rw [hl, hfree]
    by_cases hk : q.kindCode = 0
    · exact recordQueue_of_bank (r := installRecord s q) (installContent_of_bank hk)
    · exact recordQueue_of_mailbox (r := installRecord s q) (installContent_of_mailbox hk)
  · rfl

theorem State.queueOf_removeServed_same (s : State) (j : Slot) (r : Record) (m : Mailbox) (k : BufferNo) :
    (s.removeServed j r m k).queueOf j = m.queue.erase k :=
  queueOf_set_same (s := s) (t := s.removeServed j r m k) rfl

theorem State.queueOf_postMessage_same (s : State) (j : Slot) (r : Record) (m : Mailbox) (k : BufferNo)
    (rest : List BufferNo) (msg : List Byte) : (s.postMessage j r m k rest msg).queueOf j = m.queue ++ [k] :=
  queueOf_set_same (s := s) (t := s.postMessage j r m k rest msg) rfl

theorem State.queueOf_flushAll_same (s : State) (j : Slot) (r : Record) (m : Mailbox) :
    (s.flushAll j r m).queueOf j = [] :=
  queueOf_set_same (s := s) (t := s.flushAll j r m) rfl

theorem State.queueOf_flushAround_same (s : State) (j : Slot) (r : Record) (m : Mailbox) (k : BufferNo) :
    (s.flushAround j r m k).queueOf j = m.queue.filter (· == k) :=
  queueOf_set_same (s := s) (t := s.flushAround j r m k) rfl

/-! ## The buffers (R98) -/

theorem bufferLaw_of_set {s t : State} {j : Slot} {r r' : Record} (hs : BufferLaw s) (hr : s.record j = some r)
    (ht : t.table = s.table.set j.val (some r') j.isLt) (hq : recordQueue (some r') = recordQueue (some r))
    (hfree : t.freeBuffers = s.freeBuffers) : BufferLaw t := by
  rw [bufferLaw_iff_owned, hfree]
  exact Owned.congr hs (queueOf_of_set hr ht hq)

theorem bufferLaw_removeServed {s : State} {j : Slot} {r : Record} {m : Mailbox} {k : BufferNo}
    (hr : s.record j = some r) (hm : r.content = .mailbox m) (hk : k ∈ m.queue) (hs : BufferLaw s) :
    BufferLaw (s.removeServed j r m k) := by
  have hqueue : s.queueOf j = m.queue := State.queueOf_of_mailbox hr hm
  have hnodup : m.queue.Nodup := hqueue ▸ hs.2.1 j
  rw [bufferLaw_iff_owned]
  refine Owned.release (released := [k]) hs (fun l hl => queueOf_set_ne (s := s) (t := s.removeServed j r m k) rfl hl)
    (s.queueOf_removeServed_same j r m k) (hnodup.erase k) (fun l hl => ?_) fun l => ?_
  · rw [List.mem_singleton]
    exact ((hnodup.mem_erase_iff).1 hl).1
  · rw [hqueue, hnodup.mem_erase_iff, List.mem_singleton]
    by_cases h : l = k
    · simp [h, hk]
    · simp [h]

theorem bufferLaw_postMessage {s : State} {j : Slot} {r : Record} {m : Mailbox} {k : BufferNo} {rest : List BufferNo}
    (hr : s.record j = some r) (hm : r.content = .mailbox m) (hfree : s.freeBuffers = k :: rest) (msg : List Byte)
    (hs : BufferLaw s) : BufferLaw (s.postMessage j r m k rest msg) := by
  rw [bufferLaw_iff_owned]
  refine Owned.take (taken := [k]) hs
    (fun l hl => queueOf_set_ne (s := s) (t := s.postMessage j r m k rest msg) rfl hl) hfree ?_
  rw [State.queueOf_postMessage_same, State.queueOf_of_mailbox hr hm]

theorem bufferLaw_flushAll {s : State} {j : Slot} {r : Record} {m : Mailbox} (hr : s.record j = some r)
    (hm : r.content = .mailbox m) (hs : BufferLaw s) : BufferLaw (s.flushAll j r m) := by
  have hpool : (s.flushAll j r m).freeBuffers = poolReturn (s.queueOf j) s.freeBuffers := by
    rw [State.queueOf_of_mailbox hr hm]
    rfl
  rw [bufferLaw_iff_owned, hpool]
  exact Owned.releaseAll hs (fun l hl => queueOf_set_ne (s := s) (t := s.flushAll j r m) rfl hl)
    (s.queueOf_flushAll_same j r m)

theorem bufferLaw_flushAround {s : State} {j : Slot} {r : Record} {m : Mailbox} (k : BufferNo)
    (hr : s.record j = some r) (hm : r.content = .mailbox m) (hs : BufferLaw s) : BufferLaw (s.flushAround j r m k) := by
  have hqueue : s.queueOf j = m.queue := State.queueOf_of_mailbox hr hm
  have hnodup : m.queue.Nodup := hqueue ▸ hs.2.1 j
  rw [bufferLaw_iff_owned]
  refine Owned.release (released := m.queue.filter (· != k)) hs
    (fun l hl => queueOf_set_ne (s := s) (t := s.flushAround j r m k) rfl hl)
    (s.queueOf_flushAround_same j r m k) (hnodup.filter _) (fun l hl => ?_) fun l => ?_
  · simp only [List.mem_filter, beq_iff_eq] at hl
    simp [hl.2]
  · rw [hqueue, List.mem_filter, List.mem_filter]
    by_cases h : l = k <;> simp [h]

theorem bufferLaw_settleHead {s : State} {c : Context} (hc : s.engine.ctx = some c) (hserved : ServedLaw s)
    (hs : BufferLaw s) (cause : EndCause) : BufferLaw (s.settleHead c cause) := by
  rcases s.settleHead_cases c cause with h | ⟨r, m, k, hr, hm, hk, h⟩ <;> rw [h]
  · exact hs
  · obtain ⟨-, hhead⟩ := hserved c k hc hk
    rw [State.queueOf_of_mailbox hr hm] at hhead
    exact bufferLaw_removeServed hr hm (List.mem_of_head? hhead) hs

theorem bufferLaw_endTransaction {s : State} {c : Context} (hc : s.engine.ctx = some c) (hserved : ServedLaw s)
    (hs : BufferLaw s) (cause : EndCause) : BufferLaw (s.endTransaction cause) := by
  have hhead := bufferLaw_settleHead hc hserved hs cause
  rcases State.endTransaction_records hc cause with ⟨-, hsame⟩ | ⟨-, hsame⟩
  · exact hsame.bufferLaw hhead
  · exact hsame.bufferLaw (bufferLaw_freeRecord hhead c.slot)

theorem bufferLaw_clearBlocks (s : State) : BufferLaw s.clearBlocks := by
  rw [bufferLaw_iff_owned]
  exact Owned.all_free fun i => by rw [State.queueOf_eq, State.record_clearBlocks]; rfl

theorem State.installAt_freeBuffers (s : State) (j : Slot) (q : InstallFields) :
    (s.installAt j q).freeBuffers = s.freeBuffers := by
  unfold State.installAt
  split <;> rfl

theorem State.installAt_engine (s : State) (j : Slot) (q : InstallFields) : (s.installAt j q).engine = s.engine := by
  unfold State.installAt
  split <;> rfl

theorem State.installAt_buffers (s : State) (j : Slot) (q : InstallFields) : (s.installAt j q).buffers = s.buffers := by
  unfold State.installAt
  split <;> rfl

theorem Change.bufferLaw {i : Instr} {s t : State} (h : Change i s t) (hserved : ServedLaw s) (hs : BufferLaw s) :
    BufferLaw t := by
  cases h
  case idle | meter | grant | engine | pin | context => exact hs
  case clear => exact bufferLaw_clearBlocks s
  case point c d e r b p _ hr hb _ => exact bufferLaw_of_set hs hr rfl (recordQueue_point hb) rfl
  case apply v c d e r b _ _ hr hb _ _ => exact bufferLaw_of_set hs hr rfl (recordQueue_point hb) rfl
  case record j r r' q hr hm _ => exact bufferLaw_of_set hs hr rfl hm.recordQueue rfl
  case keepLoad j r b offset data hr _ _ _ _ _ _ _ => exact bufferLaw_of_set (r' := r.reload) hs hr rfl rfl rfl
  case load j r b offset data hr _ _ _ => exact bufferLaw_of_set (r' := r.reload) hs hr rfl rfl rfl
  case fetch c d e r b offset data _ _ hr _ _ => exact bufferLaw_of_set (r' := r.reload) hs hr rfl rfl rfl
  case post j r m k rest msg hr _ hm _ hfree _ _ => exact bufferLaw_postMessage hr hm hfree msg hs
  case flushAll j r m hr hm _ => exact bufferLaw_flushAll hr hm hs
  case flushAround j r m k hr hm _ => exact bufferLaw_flushAround k hr hm hs
  case install j q hok =>
    rw [bufferLaw_iff_owned, State.installAt_freeBuffers]
    exact Owned.congr hs (State.queueOf_installAt hok)
  case free j _ => exact bufferLaw_freeRecord hs j
  case finish cause c q hc _ _ => exact bufferLaw_endTransaction hc hserved hs cause
  case finishRetire c r hc _ _ _ => exact bufferLaw_freeRecord (bufferLaw_endTransaction hc hserved hs .retire) c.slot

/-! ## The served message (R104) -/

section Served

variable {s t : State}

/-- With the same context and the same queue of its slot, the served message is still the head. -/
theorem servedLaw_of_queue (hs : ServedLaw s) (hctx : t.engine.ctx = s.engine.ctx)
    (hq : ∀ c k, s.engine.ctx = some c → c.served = .message k → c.direction = .read →
      (s.queueOf c.slot).head? = some k → (t.queueOf c.slot).head? = some k) : ServedLaw t := by
  intro c k hc hk
  rw [hctx] at hc
  obtain ⟨hread, hhead⟩ := hs c k hc hk
  exact ⟨hread, hq c k hc hk hread hhead⟩

/-- A context that moves with its queue unchanged serves the head still, or from now on. -/
theorem servedLaw_of_continues (he : EngineLaw s) (hs : ServedLaw s) {c d : Context} {e : Engine}
    (h : Continues s c e d) (ht : t.engine = e) (hq : ∀ j, t.queueOf j = s.queueOf j) : ServedLaw t := by
  intro d' k hd hk
  rw [ht, h.next, Option.some.injEq] at hd
  subst hd
  obtain ⟨hslot, hdirection, -, hserved⟩ := h.move
  rw [hq, hslot, hdirection]
  rcases hserved with hsame | ⟨-, hphase, hfirst⟩
  · exact hs c k h.ctx (hsame ▸ hk)
  · obtain ⟨-, -, -, -, hread, -⟩ := he
    exact ⟨hread c h.ctx (Or.inl hphase), hfirst k hk⟩

/-- A record moves with its queue unchanged. -/
theorem servedLaw_of_set {j : Slot} {r r' : Record} (hs : ServedLaw s) (hr : s.record j = some r)
    (ht : t.table = s.table.set j.val (some r') j.isLt) (hq : recordQueue (some r') = recordQueue (some r))
    (hctx : t.engine.ctx = s.engine.ctx) : ServedLaw t :=
  servedLaw_of_queue hs hctx fun c _ _ _ _ hhead => by rwa [queueOf_of_set hr ht hq]

theorem servedLaw_of_none (h : t.engine.ctx = none) : ServedLaw t := by
  intro c k hc
  rw [h] at hc
  cases hc

end Served

theorem State.servedMessage_of_ctx {s : State} {c : Context} {k : BufferNo} (hc : s.engine.ctx = some c)
    (hread : c.direction = .read) (hk : c.served = .message k) : s.servedMessage c.slot = some k := by
  simp [State.servedMessage, hc, hread, hk]

theorem Change.servedLaw {i : Instr} {s t : State} (h : Change i s t) (he : EngineLaw s) (hs : ServedLaw s) :
    ServedLaw t := by
  cases h
  case idle | meter => exact hs
  case clear => exact servedLaw_of_none rfl
  case grant c r p q e hc _ _ _ _ _ _ _ hnext _ =>
    intro d k hd hk
    rw [hnext, Option.some.injEq] at hd
    subst hd
    exact hs c k hc hk
  case engine e q hctx _ _ => exact servedLaw_of_queue hs hctx fun _ _ _ _ _ hhead => hhead
  case pin j r d reason reserved e q _ _ _ hnext _ =>
    intro c k hc hk
    rw [hnext, Option.some.injEq] at hc
    subst hc
    cases hk
  case context c d e hc => exact servedLaw_of_continues he hs hc rfl fun _ => rfl
  case point c d e r b p hc hr hb _ =>
    exact servedLaw_of_continues he hs hc rfl (queueOf_of_set hr rfl (recordQueue_point hb))
  case apply v c d e r b hc _ hr hb _ _ =>
    exact servedLaw_of_continues he hs hc rfl (queueOf_of_set hr rfl (recordQueue_point hb))
  case fetch c d e r b offset data hc _ hr _ _ =>
    exact servedLaw_of_continues he hs hc rfl (queueOf_of_set (r' := r.reload) hr rfl rfl)
  case record j r r' q hr hm _ => exact servedLaw_of_set hs hr rfl hm.recordQueue rfl
  case keepLoad j r b offset data hr _ _ _ _ _ _ _ => exact servedLaw_of_set (r' := r.reload) hs hr rfl rfl rfl
  case load j r b offset data hr _ _ _ => exact servedLaw_of_set (r' := r.reload) hs hr rfl rfl rfl
  case post j r m k rest msg hr _ hm _ _ _ _ =>
    refine servedLaw_of_queue hs rfl fun c l _ _ _ hhead => ?_
    by_cases hj : c.slot = j
    · rw [hj, State.queueOf_of_mailbox hr hm] at hhead
      rw [hj, State.queueOf_postMessage_same, List.head?_append, hhead]
      rfl
    · rwa [queueOf_set_ne (s := s) (t := s.postMessage j r m k rest msg) rfl hj]
  case flushAll j r m hr hm hn =>
    refine servedLaw_of_queue hs rfl fun c l hc hl hread hhead => ?_
    have hj : c.slot ≠ j := by
      rintro rfl
      rw [State.servedMessage_of_ctx hc hread hl] at hn
      cases hn
    rwa [queueOf_set_ne (s := s) (t := s.flushAll j r m) rfl hj]
  case flushAround j r m k hr hm hk =>
    refine servedLaw_of_queue hs rfl fun c l hc hl hread hhead => ?_
    by_cases hj : c.slot = j
    · have hlk : l = k := by
        rw [← hj, State.servedMessage_of_ctx hc hread hl] at hk
        exact Option.some.inj hk
      rw [hj, State.queueOf_of_mailbox hr hm] at hhead
      rw [hj, State.queueOf_flushAround_same]
      obtain ⟨rest, hq⟩ := List.head?_eq_some_iff.1 hhead
      rw [hq, List.filter_cons, if_pos (by simp [hlk]), List.head?_cons]
    · rwa [queueOf_set_ne (s := s) (t := s.flushAround j r m k) rfl hj]
  case install j q hok =>
    exact servedLaw_of_queue hs (congrArg Engine.ctx (s.installAt_engine j q)) fun c k _ _ _ hhead => by
      rwa [State.queueOf_installAt hok]
  case free j hp =>
    refine servedLaw_of_queue hs (by rw [State.freeRecord_engine]) fun c k hc _ _ hhead => ?_
    have hj : c.slot ≠ j := fun hj => by
      rw [State.pinned_iff.2 ⟨c, hc, hj⟩] at hp
      cases hp
    rwa [State.queueOf_freeRecord, if_neg hj]
  case finish cause c q hc _ _ => exact servedLaw_of_none (State.endTransaction_ctx hc cause)
  case finishRetire c r hc _ _ _ =>
    exact servedLaw_of_none (by rw [State.freeRecord_engine, State.endTransaction_ctx hc])

/-! ## The messages (R98) -/

/-- A buffer that records a message of at most 32 bytes still has 32 bytes. -/
theorem Buffer.record_bytes_length {b : Buffer} (h : b.bytes.length = 32) {msg : List Byte} (hmsg : msg.length ≤ 32) :
    (b.record msg).bytes.length = 32 := by
  simp only [Buffer.record, List.length_append, List.length_drop, h]
  omega

theorem State.buffer_postMessage (s : State) (j : Slot) (r : Record) (m : Mailbox) (k : BufferNo)
    (rest : List BufferNo) (msg : List Byte) (l : BufferNo) :
    (s.postMessage j r m k rest msg).buffer l = if l = k then (s.buffer k).record msg else s.buffer l := by
  have hset : (s.postMessage j r m k rest msg).buffer l =
      (s.buffers.set k.val ((s.buffer k).record msg) k.isLt)[l.val]'l.isLt := rfl
  rw [hset, Vector.getElem_set]
  by_cases h : l = k
  · rw [if_pos (congrArg Fin.val h.symm), if_pos h]
  · rw [if_neg fun hv => h (Fin.ext hv.symm), if_neg h]
    rfl

/-- The buffers stay, and no queue gains one. -/
theorem messageLaw_of_sub {s t : State} (hs : MessageLaw s) (hb : t.buffers = s.buffers)
    (hq : ∀ j k, k ∈ t.queueOf j → k ∈ s.queueOf j) : MessageLaw t := by
  have hbuffer (k : BufferNo) : t.buffer k = s.buffer k := by simp only [State.buffer, hb]
  obtain ⟨hbytes, hlen⟩ := hs
  exact ⟨fun k => hbuffer k ▸ hbytes k, fun j k hk => hbuffer k ▸ hlen j k (hq j k hk)⟩

theorem messageLaw_postMessage {s : State} {j : Slot} {r : Record} {m : Mailbox} {k : BufferNo} {rest : List BufferNo}
    {msg : List Byte} (hr : s.record j = some r) (hm : r.content = .mailbox m) (hfree : s.freeBuffers = k :: rest)
    (h1 : 1 ≤ msg.length) (h32 : msg.length ≤ 32) (hbuf : BufferLaw s) (hs : MessageLaw s) :
    MessageLaw (s.postMessage j r m k rest msg) := by
  obtain ⟨hbytes, hlen⟩ := hs
  obtain ⟨-, -, howned, -⟩ := hbuf
  have hold {i : Slot} {l : BufferNo} (hl : l ∈ s.queueOf i) :
      1 ≤ ((s.postMessage j r m k rest msg).buffer l).length ∧
        ((s.postMessage j r m k rest msg).buffer l).length ≤ 32 := by
    have hne : l ≠ k := fun hlk => howned i l hl (hfree ▸ hlk ▸ List.mem_cons_self)
    rw [State.buffer_postMessage, if_neg hne]
    exact hlen i l hl
  refine ⟨fun l => ?_, fun i l hl => ?_⟩
  · rw [State.buffer_postMessage]
    split
    · exact Buffer.record_bytes_length (hbytes k) h32
    · exact hbytes l
  · by_cases hi : i = j
    · rw [hi, State.queueOf_postMessage_same, List.mem_append, List.mem_singleton] at hl
      rcases hl with hl | rfl
      · exact hold (i := j) (State.queueOf_of_mailbox hr hm ▸ hl)
      · rw [State.buffer_postMessage, if_pos rfl]
        exact ⟨h1, h32⟩
    · rw [queueOf_set_ne (s := s) (t := s.postMessage j r m k rest msg) rfl hi] at hl
      exact hold hl

/-- One queue shrinks. -/
theorem queueOf_sub_of_set {s t : State} {j : Slot} {o : Option Record} (ht : t.table = s.table.set j.val o j.isLt)
    (hq : ∀ k, k ∈ recordQueue o → k ∈ s.queueOf j) (l : Slot) (k : BufferNo) (hk : k ∈ t.queueOf l) :
    k ∈ s.queueOf l := by
  by_cases hl : l = j
  · rw [hl, queueOf_set_same ht] at hk
    exact hl ▸ hq k hk
  · rwa [queueOf_set_ne ht hl] at hk

theorem queueOf_sub_freeRecord {s t : State} (h : ∀ j k, k ∈ t.queueOf j → k ∈ s.queueOf j) (i j : Slot) (k : BufferNo)
    (hk : k ∈ (t.freeRecord i).queueOf j) : k ∈ s.queueOf j := by
  rw [State.queueOf_freeRecord] at hk
  split at hk
  · cases hk
  · exact h j k hk

theorem queueOf_sub_settleHead {s : State} (c : Context) (cause : EndCause) (j : Slot) (k : BufferNo)
    (hk : k ∈ (s.settleHead c cause).queueOf j) : k ∈ s.queueOf j := by
  rcases s.settleHead_cases c cause with h | ⟨r, m, l, hr, hm, -, h⟩ <;> rw [h] at hk
  · exact hk
  · refine queueOf_sub_of_set (s := s) (t := s.removeServed c.slot r m l) rfl (fun k hk => ?_) j k hk
    rw [State.queueOf_of_mailbox hr hm]
    exact List.mem_of_mem_erase hk

theorem messageLaw_endTransaction {s : State} {c : Context} (hc : s.engine.ctx = some c) (hs : MessageLaw s)
    (cause : EndCause) : MessageLaw (s.endTransaction cause) := by
  refine messageLaw_of_sub hs (State.endTransaction_buffers s cause) fun j k hk => ?_
  rcases State.endTransaction_records hc cause with ⟨-, hsame⟩ | ⟨-, hsame⟩ <;> rw [hsame.queueOf] at hk
  · exact queueOf_sub_settleHead c cause j k hk
  · exact queueOf_sub_freeRecord (queueOf_sub_settleHead c cause) c.slot j k hk

theorem messageLaw_freeRecord {s : State} (hs : MessageLaw s) (j : Slot) : MessageLaw (s.freeRecord j) :=
  messageLaw_of_sub hs (s.freeRecord_buffers j) (queueOf_sub_freeRecord (fun _ _ hk => hk) j)

theorem messageLaw_of_set {s t : State} {j : Slot} {r r' : Record} (hs : MessageLaw s) (hr : s.record j = some r)
    (ht : t.table = s.table.set j.val (some r') j.isLt) (hq : recordQueue (some r') = recordQueue (some r))
    (hb : t.buffers = s.buffers) : MessageLaw t :=
  messageLaw_of_sub hs hb fun l _ hk => queueOf_of_set hr ht hq l ▸ hk

theorem Change.messageLaw {i : Instr} {s t : State} (h : Change i s t) (hbuf : BufferLaw s) (hs : MessageLaw s) :
    MessageLaw t := by
  cases h
  case idle | meter | grant | engine | pin | context => exact hs
  case clear =>
    refine messageLaw_of_sub hs rfl fun j k hk => ?_
    rw [State.queueOf_eq, State.record_clearBlocks] at hk
    cases hk
  case point c d e r b p _ hr hb _ => exact messageLaw_of_set hs hr rfl (recordQueue_point hb) rfl
  case apply v c d e r b _ _ hr hb _ _ => exact messageLaw_of_set hs hr rfl (recordQueue_point hb) rfl
  case record j r r' q hr hm _ => exact messageLaw_of_set hs hr rfl hm.recordQueue rfl
  case keepLoad j r b offset data hr _ _ _ _ _ _ _ => exact messageLaw_of_set (r' := r.reload) hs hr rfl rfl rfl
  case load j r b offset data hr _ _ _ => exact messageLaw_of_set (r' := r.reload) hs hr rfl rfl rfl
  case fetch c d e r b offset data _ _ hr _ _ => exact messageLaw_of_set (r' := r.reload) hs hr rfl rfl rfl
  case post j r m k rest msg hr _ hm _ hfree h1 h32 => exact messageLaw_postMessage hr hm hfree h1 h32 hbuf hs
  case flushAll j r m hr hm _ =>
    exact messageLaw_of_sub hs rfl (queueOf_sub_of_set (s := s) (t := s.flushAll j r m) rfl fun k hk =>
      absurd hk List.not_mem_nil)
  case flushAround j r m k hr hm _ =>
    refine messageLaw_of_sub hs rfl (queueOf_sub_of_set (s := s) (t := s.flushAround j r m k) rfl fun l hl => ?_)
    rw [State.queueOf_of_mailbox hr hm]
    exact List.mem_of_mem_filter hl
  case install j q hok =>
    exact messageLaw_of_sub hs (s.installAt_buffers j q) fun l k hk => State.queueOf_installAt hok l ▸ hk
  case free j _ => exact messageLaw_freeRecord hs j
  case finish cause c q hc _ _ => exact messageLaw_endTransaction hc hs cause
  case finishRetire c r hc _ _ _ => exact messageLaw_freeRecord (messageLaw_endTransaction hc hs .retire) c.slot

end Sys2Proof.Machine

/-! The head-flushed mark over every step, and the laws of the Mailbox Unit together (R100, R112). -/

namespace Sys2Proof.Machine

/-! ## Marked slots -/

/-- A record that carries the head-flushed mark (R100). -/
def recordMarked : Option Record → Bool
  | some r =>
    match r.content with
    | .bank _ => false
    | .mailbox m => m.headFlushed
  | none => false

theorem recordMarked_of_bank {r : Record} {b : Bank} (h : r.content = .bank b) : recordMarked (some r) = false := by
  simp [recordMarked, h]

theorem recordMarked_of_mailbox {r : Record} {m : Mailbox} (h : r.content = .mailbox m) :
    recordMarked (some r) = m.headFlushed := by
  simp [recordMarked, h]

/-- The open read of slot `j` has a served message (R104). -/
def State.Serves (s : State) (j : Slot) : Prop :=
  ∃ c k, s.engine.ctx = some c ∧ c.slot = j ∧ c.direction = .read ∧ c.served = .message k

theorem markLaw_iff {s : State} : MarkLaw s ↔ ∀ j, recordMarked (s.record j) = true → s.Serves j := by
  constructor
  · intro h j hj
    cases hr : s.record j with
    | none =>
      rw [hr] at hj
      cases hj
    | some r =>
      cases hm : r.content with
      | bank b =>
        rw [hr, recordMarked_of_bank hm] at hj
        cases hj
      | mailbox m => exact h j r m hr hm (by rw [← recordMarked_of_mailbox hm, ← hr, hj])
  · intro h j r m hr hm hmark
    exact h j (by rw [hr, recordMarked_of_mailbox hm, hmark])

section Marks

variable {s t : State}

/-- No slot gains the mark, and the open read serves what it did. -/
theorem markLaw_of (hs : MarkLaw s) (hmark : ∀ j, recordMarked (t.record j) = true → recordMarked (s.record j) = true)
    (hserves : ∀ j, s.Serves j → t.Serves j) : MarkLaw t :=
  markLaw_iff.2 fun j hj => hserves j (markLaw_iff.1 hs j (hmark j hj))

theorem State.Serves.congr {j : Slot} (h : s.Serves j) (ht : t.engine.ctx = s.engine.ctx) : t.Serves j := by
  obtain ⟨c, k, hc, hrest⟩ := h
  exact ⟨c, k, ht.trans hc, hrest⟩

/-- A message once served stays the served one while the pin lasts (R104). -/
theorem State.Serves.continues {j : Slot} (h : s.Serves j) {c d : Context} {e : Engine} (hc : Continues s c e d)
    (ht : t.engine = e) : t.Serves j := by
  obtain ⟨c', k, hc', hslot, hread, hk⟩ := h
  rw [hc.ctx, Option.some.injEq] at hc'
  subst hc'
  obtain ⟨hs, hd, -, hserved⟩ := hc.move
  have hsame : d.served = c.served := hserved.resolve_right fun hfirst => by
    rw [hfirst.1] at hk
    cases hk
  exact ⟨d, k, by rw [ht, hc.next], hs.trans hslot, hd.trans hread, hsame.trans hk⟩

/-- One record replaced by one that is marked only if it was. -/
theorem recordMarked_of_set {j : Slot} {o : Option Record} (ht : t.table = s.table.set j.val o j.isLt)
    (h : recordMarked o = true → recordMarked (s.record j) = true) (l : Slot)
    (hl : recordMarked (t.record l) = true) : recordMarked (s.record l) = true := by
  have ht : t.record l = (s.setRecord j o).record l := State.record_congr ht l
  rw [ht, State.record_setRecord] at hl
  split at hl
  · rename_i hlj
    exact hlj ▸ h hl
  · exact hl

theorem RecordMove.recordMarked {j : Slot} {r r' : Record} (h : RecordMove s j r r') :
    recordMarked (some r') = recordMarked (some r) := by
  cases h
  case point b p hb _ => simp [Machine.recordMarked, hb]
  all_goals rfl

theorem recordMarked_freeRecord (i j : Slot) (h : recordMarked ((t.freeRecord i).record j) = true) :
    recordMarked (t.record j) = true := by
  rw [State.record_freeRecord] at h
  split at h
  · cases h
  · exact h

theorem recordMarked_installAt (l : Slot) (q : InstallFields) (j : Slot)
    (h : recordMarked ((s.installAt l q).record j) = true) : recordMarked (s.record j) = true := by
  rw [State.record_installAt] at h
  split at h
  · by_cases hk : q.kindCode = 0
    · rw [recordMarked_of_bank (r := installRecord s q) (installContent_of_bank hk)] at h
      cases h
    · rw [recordMarked_of_mailbox (r := installRecord s q) (installContent_of_mailbox hk)] at h
      cases h
  · exact h

end Marks

/-! ## The end of a transaction -/

/-- A served message with the mark is removed, whatever the end (R107). -/
theorem State.settleHead_of_marked {s : State} {c : Context} {r : Record} {m : Mailbox} {k : BufferNo}
    (hr : s.record c.slot = some r) (hm : r.content = .mailbox m) (hk : c.served = .message k)
    (hmark : m.headFlushed = true) (cause : EndCause) : s.settleHead c cause = s.removeServed c.slot r m k := by
  simp [State.settleHead, hr, hm, hk, hmark]

/-- Step 2 leaves no mark: only the slot of the served message had one (R107, R112). -/
theorem settleHead_unmarked {s : State} {c : Context} (hc : s.engine.ctx = some c) (hs : MarkLaw s) (cause : EndCause)
    (j : Slot) : recordMarked ((s.settleHead c cause).record j) = false := by
  refine Bool.eq_false_iff.2 fun hj => ?_
  have hback : recordMarked (s.record j) = true := by
    rcases s.settleHead_cases c cause with h | ⟨r, m, k, hr, hm, -, h⟩ <;> rw [h] at hj
    · exact hj
    · refine recordMarked_of_set (s := s) (t := s.removeServed c.slot r m k) rfl (fun hmark => ?_) j hj
      rw [recordMarked_of_mailbox rfl] at hmark
      cases hmark
  obtain ⟨c', k, hc', rfl, -, hk⟩ := markLaw_iff.1 hs j hback
  rw [hc, Option.some.injEq] at hc'
  subst hc'
  cases hr : s.record c.slot with
  | none =>
    rw [hr] at hback
    cases hback
  | some r =>
    cases hm : r.content with
    | bank b =>
      rw [hr, recordMarked_of_bank hm] at hback
      cases hback
    | mailbox m =>
      rw [hr, recordMarked_of_mailbox hm] at hback
      have hafter : (s.removeServed c.slot r m k).record c.slot =
          some { r with content := .mailbox { m with queue := m.queue.erase k, headFlushed := false } } :=
        s.record_setRecord_same c.slot _
      rw [State.settleHead_of_marked hr hm hk hback, hafter, recordMarked_of_mailbox rfl] at hj
      cases hj

theorem endTransaction_unmarked {s : State} {c : Context} (hc : s.engine.ctx = some c) (hs : MarkLaw s)
    (cause : EndCause) (j : Slot) : recordMarked ((s.endTransaction cause).record j) = false := by
  have hhead := settleHead_unmarked hc hs cause j
  rcases State.endTransaction_records hc cause with ⟨-, hsame⟩ | ⟨-, hsame⟩ <;> rw [hsame.record]
  · exact hhead
  · exact Bool.eq_false_iff.2 fun hj => Bool.eq_false_iff.1 hhead (recordMarked_freeRecord c.slot j hj)

theorem markLaw_of_unmarked {t : State} (h : ∀ j, recordMarked (t.record j) = false) : MarkLaw t :=
  markLaw_iff.2 fun j hj => absurd hj (Bool.eq_false_iff.1 (h j))

/-! ## Every step -/

theorem Change.markLaw {i : Instr} {s t : State} (h : Change i s t) (he : EngineLaw s) (hs : MarkLaw s) :
    MarkLaw t := by
  cases h
  case idle | meter => exact hs
  case clear => exact markLaw_of_unmarked fun j => by rw [State.record_clearBlocks]; rfl
  case grant c r p q e hc _ _ _ _ _ _ _ hnext _ =>
    refine markLaw_of hs (fun _ hj => hj) fun j hj => ?_
    obtain ⟨c', k, hc', hrest⟩ := hj
    rw [hc, Option.some.injEq] at hc'
    subst hc'
    exact ⟨_, k, hnext, hrest⟩
  case engine e q hctx _ _ => exact markLaw_of hs (fun _ hj => hj) fun j hj => hj.congr hctx
  case pin j r d reason reserved e q hphase _ _ _ _ =>
    refine markLaw_of_unmarked fun j => Bool.eq_false_iff.2 fun hj => ?_
    obtain ⟨c, k, hc, -⟩ := markLaw_iff.1 hs j hj
    rw [he.ctx_of_address hphase] at hc
    cases hc
  case context c d e hc => exact markLaw_of hs (fun _ hj => hj) fun j hj => hj.continues hc rfl
  case point c d e r b p hc hr hb _ =>
    refine markLaw_of hs (recordMarked_of_set rfl fun hmark => ?_) fun j hj => hj.continues hc rfl
    rw [recordMarked_of_bank rfl] at hmark
    cases hmark
  case apply v c d e r b hc _ hr hb _ _ =>
    refine markLaw_of hs (recordMarked_of_set rfl fun hmark => ?_) fun j hj => hj.continues hc rfl
    rw [recordMarked_of_bank rfl] at hmark
    cases hmark
  case fetch c d e r b offset data hc _ hr _ _ =>
    exact markLaw_of hs (recordMarked_of_set rfl fun hmark => hr ▸ hmark) fun j hj => hj.continues hc rfl
  case record j r r' q hr hm _ =>
    exact markLaw_of hs (recordMarked_of_set rfl fun hmark => by rwa [hr, ← hm.recordMarked]) fun j hj => hj.congr rfl
  case keepLoad j r b offset data hr _ _ _ _ _ _ _ =>
    exact markLaw_of hs (recordMarked_of_set rfl fun hmark => hr ▸ hmark) fun j hj => hj.congr rfl
  case load j r b offset data hr _ _ _ =>
    exact markLaw_of hs (recordMarked_of_set rfl fun hmark => hr ▸ hmark) fun j hj => hj.congr rfl
  case post j r m k rest msg hr _ hm _ _ _ _ =>
    refine markLaw_of hs (recordMarked_of_set (t := s.postMessage j r m k rest msg) rfl fun hmark => ?_)
      fun j hj => hj.congr rfl
    rw [recordMarked_of_mailbox rfl] at hmark
    rwa [hr, recordMarked_of_mailbox hm]
  case flushAll j r m hr hm _ =>
    refine markLaw_of hs (recordMarked_of_set (t := s.flushAll j r m) rfl fun hmark => ?_) fun j hj => hj.congr rfl
    rw [recordMarked_of_mailbox rfl] at hmark
    rwa [hr, recordMarked_of_mailbox hm]
  case flushAround j r m k hr hm hk =>
    refine markLaw_iff.2 fun l hl => ?_
    have hserves : s.Serves l := by
      by_cases hlj : l = j
      · obtain ⟨c, hc, hslot, hread, hserved⟩ := State.servedMessage_eq_some hk
        exact ⟨c, k, hc, hslot.trans hlj.symm, hread, hserved⟩
      · have hrec : (s.flushAround j r m k).record l = s.record l := s.record_setRecord_ne hlj _
        exact markLaw_iff.1 hs l (hrec ▸ hl)
    exact hserves.congr rfl
  case install j q _ =>
    exact markLaw_of hs (recordMarked_installAt j q) fun l hl => hl.congr (congrArg Engine.ctx (s.installAt_engine j q))
  case free j _ =>
    exact markLaw_of hs (recordMarked_freeRecord j) fun l hl => hl.congr (congrArg Engine.ctx (s.freeRecord_engine j))
  case finish cause c q hc _ _ => exact markLaw_of_unmarked (endTransaction_unmarked hc hs cause)
  case finishRetire c r hc _ _ _ =>
    exact markLaw_of_unmarked fun j => Bool.eq_false_iff.2 fun hj =>
      Bool.eq_false_iff.1 (endTransaction_unmarked hc hs .retire j) (recordMarked_freeRecord c.slot j hj)

theorem ofBody_bufferLaw : OfBody BufferLaw := fun _ _ ⟨_, _, _, _, _, _, _⟩ h => h

theorem ofBody_servedLaw : OfBody ServedLaw := fun _ _ ⟨_, _, _, _, _, _, _⟩ h => h

theorem ofBody_messageLaw : OfBody MessageLaw := fun _ _ ⟨_, _, _, _, _, _, _⟩ h => h

theorem ofBody_markLaw : OfBody MarkLaw := fun _ _ ⟨_, _, _, _, _, _, _⟩ h => h

/-- Settles O55: the three laws of the Mailbox Unit, each over every change of the part. -/
theorem everyStepKeepsTheBufferLaw : Obligations.EveryStepKeepsTheBufferLaw := by
  refine ⟨fun s t he hbuf hserved hstep => ?_, fun s t hbuf hmsg hstep => ?_, fun s t he hmark hstep => ?_⟩
  · exact step_keeps_law ofBody_engineLaw (ofBody_bufferLaw.and ofBody_servedLaw)
      (fun _ _ _ hc he hs => ⟨hc.bufferLaw hs.2 hs.1, hc.servedLaw he hs.2⟩) he ⟨hbuf, hserved⟩ hstep
  · exact step_keeps_law ofBody_bufferLaw ofBody_messageLaw (fun _ _ _ hc hb hs => hc.messageLaw hb hs) hbuf hmsg hstep
  · exact step_keeps_law ofBody_engineLaw ofBody_markLaw (fun _ _ _ hc he hs => hc.markLaw he hs) he hmark hstep

end Sys2Proof.Machine

/-! The pinned endpoint, RETIRING records and the Update Hold over every step (R10, R22, R23, R51, R57). -/

namespace Sys2Proof.Machine

/-! ## Lifecycle states in a step -/

theorem State.retiring_iff {s : State} {j : Slot} :
    s.retiring j = true ↔ ∃ r, s.record j = some r ∧ r.state = .retiring := by
  unfold State.retiring
  cases s.record j <;> simp

/-- Where an event can take the lifecycle state of a record that stays (R10). -/
theorem RecordMove.state {s : State} {j : Slot} {r r' : Record} (h : RecordMove s j r r') :
    r'.state = r.state ∨ (r'.state ≠ .staged ∧ r'.state ≠ .retiring) ∨
      (r'.state = .retiring ∧ s.pinned j = true ∧ s.engine.phase ≠ .hold) := by
  cases h
  case reload | tick | expire | point => exact Or.inl rfl
  case activate | quiesce | resume => exact Or.inr (Or.inl ⟨EndpointState.noConfusion, EndpointState.noConfusion⟩)
  case retire _ hp hh => exact Or.inr (Or.inr ⟨rfl, hp, hh⟩)

/-- The slot of the pinned endpoint (R75). -/
def State.pinnedSlot (s : State) : Option Slot := s.engine.ctx.map Context.slot

theorem State.pinned_iff_pinnedSlot {s : State} {j : Slot} : s.pinned j = true ↔ s.pinnedSlot = some j := by
  rw [State.pinned_iff, State.pinnedSlot, Option.map_eq_some_iff]

section Pin

variable {s t : State}

theorem State.pinned_of_pinnedSlot (h : t.pinnedSlot = s.pinnedSlot) {j : Slot} (hj : s.pinned j = true) :
    t.pinned j = true :=
  State.pinned_iff_pinnedSlot.2 (h.trans (State.pinned_iff_pinnedSlot.1 hj))

theorem Continues.pinnedSlot {c d : Context} {e : Engine} (h : Continues s c e d) (ht : t.engine = e) :
    t.pinnedSlot = s.pinnedSlot := by
  rw [State.pinnedSlot, ht, h.next, State.pinnedSlot, h.ctx, Option.map_some, Option.map_some, h.move.slot]

/-- The pin stays where it was, no hold begins, and one record has moved as `RecordMove.state` allows. -/
theorem pinLaw_of_set {j : Slot} {r r' : Record} (hs : PinLaw s) (hr : s.record j = some r)
    (ht : t.table = s.table.set j.val (some r') j.isLt) (hslot : t.pinnedSlot = s.pinnedSlot)
    (hphase : t.engine.phase = .hold → s.engine.phase = .hold)
    (hmove : r'.state = r.state ∨ (r'.state ≠ .staged ∧ r'.state ≠ .retiring) ∨
      (r'.state = .retiring ∧ s.pinned j = true ∧ s.engine.phase ≠ .hold)) : PinLaw t := by
  obtain ⟨hpinned, hretiring⟩ := hs
  have ht (l : Slot) : t.record l = if l = j then some r' else s.record l := by
    rw [State.record_congr (s := s.setRecord j (some r')) ht l, State.record_setRecord]
  refine ⟨fun d hd => ?_, fun l q hq hstate => ?_⟩
  · have hpin : s.pinnedSlot = some d.slot := by rw [← hslot, State.pinnedSlot, hd, Option.map_some]
    obtain ⟨c, hc, hcd⟩ := State.pinned_iff.1 (State.pinned_iff_pinnedSlot.2 hpin)
    obtain ⟨q, hq, hstaged, hhold⟩ := hpinned c hc
    rw [ht, ← hcd]
    by_cases hj : c.slot = j
    · rw [if_pos hj]
      rw [hj, hr, Option.some.injEq] at hq
      subst hq
      rcases hmove with hm | ⟨hm, hm'⟩ | ⟨hm, -, hh⟩
      · exact ⟨r', rfl, hm ▸ hstaged, fun hp => hm ▸ hhold (hphase hp)⟩
      · exact ⟨r', rfl, hm, fun _ => hm'⟩
      · exact ⟨r', rfl, by rw [hm]; exact EndpointState.noConfusion, fun hp => absurd (hphase hp) hh⟩
    · rw [if_neg hj]
      exact ⟨q, hq, hstaged, fun hp => hhold (hphase hp)⟩
  · refine State.pinned_of_pinnedSlot hslot ?_
    rw [ht] at hq
    split at hq
    · rename_i hl
      rw [Option.some.injEq] at hq
      subst hl hq
      rcases hmove with hm | ⟨-, hm⟩ | ⟨-, hp, -⟩
      · exact hretiring l r hr (hm ▸ hstate)
      · exact absurd hstate hm
      · exact hp
    · exact hretiring l q hq hstate

/-- The pin stays where it was, no hold begins, and the records stay. -/
theorem pinLaw_of_table (hs : PinLaw s) (ht : t.table = s.table) (hslot : t.pinnedSlot = s.pinnedSlot)
    (hphase : t.engine.phase = .hold → s.engine.phase = .hold) : PinLaw t := by
  obtain ⟨hpinned, hretiring⟩ := hs
  refine ⟨fun d hd => ?_, fun l q hq hstate => ?_⟩
  · have hpin : s.pinnedSlot = some d.slot := by rw [← hslot, State.pinnedSlot, hd, Option.map_some]
    obtain ⟨c, hc, hcd⟩ := State.pinned_iff.1 (State.pinned_iff_pinnedSlot.2 hpin)
    obtain ⟨q, hq, hstaged, hhold⟩ := hpinned c hc
    exact ⟨q, by rw [State.record_congr ht, ← hcd, hq], hstaged, fun hp => hhold (hphase hp)⟩
  · rw [State.record_congr ht] at hq
    exact State.pinned_of_pinnedSlot hslot (hretiring l q hq hstate)

/-- Nothing is pinned, and nothing is RETIRING. -/
theorem pinLaw_of_none (hctx : t.engine.ctx = none) (h : ∀ j, t.retiring j = false) : PinLaw t := by
  refine ⟨fun c hc => ?_, fun j r hr hstate => ?_⟩
  · rw [hctx] at hc
    cases hc
  · exact absurd (State.retiring_iff.2 ⟨r, hr, hstate⟩) (Bool.eq_false_iff.1 (h j))

theorem retiring_freeRecord (i j : Slot) (h : (s.freeRecord i).retiring j = true) : j ≠ i ∧ s.retiring j = true := by
  rw [State.retiring_iff] at h ⊢
  obtain ⟨r, hr, hstate⟩ := h
  rw [State.record_freeRecord] at hr
  split at hr
  · cases hr
  · rename_i hne
    exact ⟨hne, r, hr, hstate⟩

/-- A deferred retirement is completed by the end of the transaction that deferred it (R25). -/
theorem endTransaction_retiring {c : Context} (hc : s.engine.ctx = some c) (hs : PinLaw s) (cause : EndCause)
    (j : Slot) : (s.endTransaction cause).retiring j = false := by
  refine Bool.eq_false_iff.2 fun hj => ?_
  have honly (hret : (s.settleHead c cause).retiring j = true) : j = c.slot := by
    rw [State.retiring_settleHead, State.retiring_iff] at hret
    obtain ⟨r, hr, hstate⟩ := hret
    obtain ⟨d, hd, hslot⟩ := State.pinned_iff.1 (hs.2 j r hr hstate)
    rw [hc, Option.some.injEq] at hd
    rw [← hslot, hd]
  rcases State.endTransaction_records hc cause with ⟨hn, hsame⟩ | ⟨-, hsame⟩ <;> rw [hsame.retiring] at hj
  · rw [honly hj, hn] at hj
    cases hj
  · obtain ⟨hne, hj⟩ := retiring_freeRecord c.slot j hj
    exact hne (honly hj)

theorem State.pinnedSlot_of_ctx (h : t.engine.ctx = s.engine.ctx) : t.pinnedSlot = s.pinnedSlot := by
  rw [State.pinnedSlot, h, State.pinnedSlot]

end Pin

theorem pinLaw_installAt {s : State} {q : InstallFields} {j : Slot} (hok : installCheck s q = .ok j) (hs : PinLaw s) :
    PinLaw (s.installAt j q) := by
  obtain ⟨-, -, -, hfree, -⟩ := installCheck_ok hok
  obtain ⟨hpinned, hretiring⟩ := hs
  refine ⟨fun c hc => ?_, fun l r hr hstate => ?_⟩
  · rw [State.installAt_engine] at hc
    obtain ⟨r, hr, hrest⟩ := hpinned c hc
    have hne : c.slot ≠ j := by
      rintro rfl
      rw [hr] at hfree
      cases hfree
    exact ⟨r, by rw [State.record_installAt, if_neg hne, hr], by rw [State.installAt_engine]; exact hrest⟩
  · rw [State.record_installAt] at hr
    refine State.pinned_of_pinnedSlot (State.pinnedSlot_of_ctx (congrArg Engine.ctx (s.installAt_engine j q))) ?_
    split at hr
    · cases hr
      simp only [installRecord] at hstate
      split at hstate <;> cases hstate
    · exact hretiring l r hr hstate

theorem pinLaw_freeRecord {s : State} {j : Slot} (hp : s.pinned j = false) (hs : PinLaw s) :
    PinLaw (s.freeRecord j) := by
  obtain ⟨hpinned, hretiring⟩ := hs
  refine ⟨fun c hc => ?_, fun l r hr hstate => ?_⟩
  · rw [State.freeRecord_engine] at hc
    have hne : c.slot ≠ j := fun hj => by
      rw [State.pinned_iff.2 ⟨c, hc, hj⟩] at hp
      cases hp
    obtain ⟨r, hr, hrest⟩ := hpinned c hc
    exact ⟨r, by rw [State.record_freeRecord, if_neg hne, hr], by rw [State.freeRecord_engine]; exact hrest⟩
  · rw [State.record_freeRecord] at hr
    refine State.pinned_of_pinnedSlot (State.pinnedSlot_of_ctx (congrArg Engine.ctx (s.freeRecord_engine j))) ?_
    split at hr
    · cases hr
    · exact hretiring l r hr hstate

/-- With nothing pinned no record is RETIRING (R10). -/
theorem PinLaw.retiring_of_none {s : State} (hs : PinLaw s) (hctx : s.engine.ctx = none) (j : Slot) :
    s.retiring j = false := by
  refine Bool.eq_false_iff.2 fun hj => ?_
  obtain ⟨r, hr, hstate⟩ := State.retiring_iff.1 hj
  obtain ⟨c, hc, -⟩ := State.pinned_iff.1 (hs.2 j r hr hstate)
  rw [hctx] at hc
  cases hc

theorem Change.pinLaw {i : Instr} {s t : State} (h : Change i s t) (he : EngineLaw s) (hs : PinLaw s) : PinLaw t := by
  cases h
  case idle | meter => exact hs
  case clear =>
    refine pinLaw_of_none rfl fun j => ?_
    rw [State.retiring, State.record_clearBlocks]
  case grant c r p q e hc _ hh _ _ _ _ _ hnext hphase =>
    refine pinLaw_of_table hs rfl ?_ fun hp => absurd hp hphase
    simp only [State.pinnedSlot, hnext, hc, Option.map_some]
  case engine e q hctx hphase _ => exact pinLaw_of_table hs rfl (State.pinnedSlot_of_ctx hctx) hphase
  case pin j r d reason reserved e q hphase hr hlive hnext _ =>
    have hnone := hs.retiring_of_none (he.ctx_of_address hphase)
    refine ⟨fun c hc => ?_, fun l q hq hstate => ?_⟩
    · rw [hnext, Option.some.injEq] at hc
      subst hc
      exact ⟨r, hr, by rw [hlive]; exact EndpointState.noConfusion, fun _ => by rw [hlive]; exact EndpointState.noConfusion⟩
    · exact absurd (State.retiring_iff.2 ⟨q, hq, hstate⟩) (Bool.eq_false_iff.1 (hnone l))
  case context c d e hc => exact pinLaw_of_table hs rfl (hc.pinnedSlot rfl) fun hp => absurd hp hc.phase
  case point c d e r b p hc hr _ _ =>
    exact pinLaw_of_set hs hr rfl (hc.pinnedSlot rfl) (fun hp => absurd hp hc.phase) (Or.inl rfl)
  case apply v c d e r b hc _ hr _ _ _ =>
    exact pinLaw_of_set hs hr rfl (hc.pinnedSlot rfl) (fun hp => absurd hp hc.phase) (Or.inl rfl)
  case fetch c d e r b offset data hc _ hr _ _ =>
    exact pinLaw_of_set (r' := r.reload) hs hr rfl (hc.pinnedSlot rfl) (fun hp => absurd hp hc.phase) (Or.inl rfl)
  case record j r r' q hr hm _ => exact pinLaw_of_set hs hr rfl rfl id hm.state
  case keepLoad j r b offset data hr _ _ _ _ _ _ _ =>
    exact pinLaw_of_set (r' := r.reload) hs hr rfl rfl id (Or.inl rfl)
  case load j r b offset data hr _ _ _ => exact pinLaw_of_set (r' := r.reload) hs hr rfl rfl id (Or.inl rfl)
  case post j r m k rest msg hr _ _ _ _ _ _ =>
    exact pinLaw_of_set (t := s.postMessage j r m k rest msg) hs hr rfl rfl id (Or.inl rfl)
  case flushAll j r m hr _ _ => exact pinLaw_of_set (t := s.flushAll j r m) hs hr rfl rfl id (Or.inl rfl)
  case flushAround j r m k hr _ _ =>
    exact pinLaw_of_set (t := s.flushAround j r m k) hs hr rfl rfl id (Or.inl rfl)
  case install j q hok => exact pinLaw_installAt hok hs
  case free j hp => exact pinLaw_freeRecord hp hs
  case finish cause c q hc _ _ =>
    exact pinLaw_of_none (State.endTransaction_ctx hc cause) (endTransaction_retiring hc hs cause)
  case finishRetire c r hc _ _ _ =>
    have hctx : ((s.endTransaction .retire).freeRecord c.slot).engine.ctx = none := by
      rw [State.freeRecord_engine, State.endTransaction_ctx hc]
    refine pinLaw_of_none hctx fun j => Bool.eq_false_iff.2 fun hj => ?_
    exact Bool.eq_false_iff.1 (endTransaction_retiring hc hs .retire j) (retiring_freeRecord c.slot j hj).2

/-! ## The Update Hold -/

/-- The end of a transaction empties the Update Hold (R58, R59). -/
theorem State.endTransaction_updateHold {s : State} {c : Context} (hc : s.engine.ctx = some c) (cause : EndCause) :
    (s.endTransaction cause).updateHold = [] := by
  rw [State.endTransaction_eq, State.unpin_some hc, State.settleRetirement_frame, State.settleUpdateHold_frame]

theorem holdLaw_of_kept {s t : State} (hs : HoldLaw s) (hhold : t.updateHold = s.updateHold)
    (hslot : t.pinnedSlot = s.pinnedSlot) : HoldLaw t := by
  obtain ⟨hlen, hall⟩ := hs
  exact ⟨hhold ▸ hlen, fun h hh => State.pinned_of_pinnedSlot hslot (hall h (hhold ▸ hh))⟩

theorem holdLaw_of_empty {t : State} (h : t.updateHold = []) : HoldLaw t := by
  unfold HoldLaw
  rw [h]
  exact ⟨Nat.zero_le _, fun _ hh => absurd hh List.not_mem_nil⟩

theorem State.installAt_updateHold (s : State) (j : Slot) (q : InstallFields) :
    (s.installAt j q).updateHold = s.updateHold := by
  unfold State.installAt
  split <;> rfl

theorem Change.holdLaw {i : Instr} {s t : State} (h : Change i s t) (he : EngineLaw s) (hs : HoldLaw s) :
    HoldLaw t := by
  cases h
  case idle | meter | record | load | post | flushAll | flushAround => exact hs
  case clear => exact holdLaw_of_empty rfl
  case grant c r p q e hc _ _ _ _ _ _ _ hnext _ =>
    exact holdLaw_of_kept hs rfl (by simp only [State.pinnedSlot, hnext, hc, Option.map_some])
  case engine e q hctx _ _ => exact holdLaw_of_kept hs rfl (State.pinnedSlot_of_ctx hctx)
  case pin j r d reason reserved e q hphase _ _ _ _ =>
    refine holdLaw_of_empty (List.eq_nil_iff_forall_not_mem.2 fun h hh => ?_)
    obtain ⟨c, hc, -⟩ := State.pinned_iff.1 (hs.2 h hh)
    rw [he.ctx_of_address hphase] at hc
    cases hc
  case context c d e hc | point c d e _ _ _ hc _ _ _ | apply _ c d e _ _ hc _ _ _ _ _ | fetch c d e _ _ _ _ hc _ _ _ _ =>
    exact holdLaw_of_kept hs rfl (hc.pinnedSlot rfl)
  case keepLoad j r b offset data _ _ _ _ _ _ hp hroom =>
    obtain ⟨-, hall⟩ := hs
    refine ⟨by simpa using hroom, fun h hh => ?_⟩
    rcases List.mem_append.1 hh with hh | hh
    · exact hall h hh
    · rw [List.mem_singleton.1 hh]
      exact hp
  case install j q _ =>
    exact holdLaw_of_kept hs (s.installAt_updateHold j q)
      (State.pinnedSlot_of_ctx (congrArg Engine.ctx (s.installAt_engine j q)))
  case free j _ =>
    exact holdLaw_of_kept hs (s.freeRecord_updateHold j)
      (State.pinnedSlot_of_ctx (congrArg Engine.ctx (s.freeRecord_engine j)))
  case finish cause c q hc _ _ => exact holdLaw_of_empty (State.endTransaction_updateHold hc cause)
  case finishRetire c r hc _ _ _ =>
    exact holdLaw_of_empty (by rw [State.freeRecord_updateHold, State.endTransaction_updateHold hc])

/-- A held entry lies in the window of the bank in its slot (R51). -/
def EntryInRange (s : State) (h : HeldLoad) : Prop :=
  1 ≤ h.data.length ∧ h.data.length ≤ 48 ∧
    ∃ r b, s.record h.slot = some r ∧ r.content = .bank b ∧ h.offset + h.data.length ≤ b.size

/-- An entry held after a step was held before it, or is the LOAD that the step has accepted. -/
theorem Change.mem_updateHold {i : Instr} {s t : State} (h : Change i s t) (hs : HeldRangeLaw s) {e : HeldLoad}
    (hmem : e ∈ t.updateHold) : EntryInRange s e := by
  cases h
  case idle | meter | grant | engine | pin | context | point | apply | fetch | record | load => exact hs e hmem
  case post | flushAll | flushAround => exact hs e hmem
  case clear => cases hmem
  case keepLoad j r b offset data hr _ hb h1 h48 hrange _ _ =>
    rcases List.mem_append.1 hmem with hmem | hmem
    · exact hs e hmem
    · rw [List.mem_singleton.1 hmem]
      exact ⟨h1, h48, r, b, hr, hb, hrange⟩
  case install j q _ => exact hs e (s.installAt_updateHold j q ▸ hmem)
  case free j _ => exact hs e (s.freeRecord_updateHold j ▸ hmem)
  case finish cause c q hc _ _ =>
    rw [State.endTransaction_updateHold hc cause] at hmem
    cases hmem
  case finishRetire c r hc _ _ _ =>
    rw [State.freeRecord_updateHold, State.endTransaction_updateHold hc] at hmem
    cases hmem

/-- A bank stays a bank of its size (R8). -/
theorem SameFixedFields.bank {r r' : Record} {b : Bank} (h : SameFixedFields r r') (hb : r.content = .bank b) :
    ∃ d, r'.content = .bank d ∧ d.size = b.size ∧ d.blocks = b.blocks := by
  obtain ⟨-, -, -, -, -, h⟩ := h
  rw [hb] at h
  cases hd : r'.content with
  | bank d =>
    rw [hd] at h
    obtain ⟨hsize, -, -, -, hblocks⟩ := h
    exact ⟨d, rfl, hsize, hblocks⟩
  | mailbox m =>
    rw [hd] at h
    exact h.elim

/-- The pinned record is still there after the step, and so is its window (R8, R10). -/
theorem Change.heldRangeLaw {i : Instr} {s t : State} (h : Change i s t) (he : EngineLaw s) (hpin : PinLaw s)
    (hhold : HoldLaw s) (hs : HeldRangeLaw s) : HeldRangeLaw t := by
  intro e hmem
  obtain ⟨h1, h48, r, b, hr, hb, hrange⟩ := h.mem_updateHold hs hmem
  obtain ⟨c, hc, hslot⟩ := State.pinned_iff.1 ((h.holdLaw he hhold).2 e hmem)
  obtain ⟨r', hr', -⟩ := (h.pinLaw he hpin).1 c hc
  rw [hslot] at hr'
  rcases h.record_cases hr' with ⟨r₀, hr₀, hstep⟩ | ⟨q, hok, -⟩
  · rw [hr, Option.some.injEq] at hr₀
    subst hr₀
    obtain ⟨d, hd, hsize, -⟩ := hstep.sameFixedFields.bank hb
    exact ⟨h1, h48, r', d, hr', hd, hsize ▸ hrange⟩
  · obtain ⟨-, -, -, hfree, -⟩ := installCheck_ok hok
    rw [hr] at hfree
    cases hfree

theorem ofBody_pinLaw : OfBody PinLaw := fun _ _ ⟨_, _, _, _, _, _, _⟩ h => h

theorem ofBody_holdLaw : OfBody HoldLaw := fun _ _ ⟨_, _, _, _, _, _, _⟩ h => h

theorem ofBody_heldRangeLaw : OfBody HeldRangeLaw := fun _ _ ⟨_, _, _, _, _, _, _⟩ h => h

/-- Settles O57: the pin, the retirements and the Update Hold over every change of the part. -/
theorem everyStepKeepsThePinLaws : Obligations.EveryStepKeepsThePinLaws := by
  refine ⟨fun s t he hpin hhold hstep => ?_, fun s t he hpin hhold hrange hstep => ?_⟩
  · exact step_keeps_law ofBody_engineLaw (ofBody_pinLaw.and ofBody_holdLaw)
      (fun _ _ _ hc he hs => ⟨hc.pinLaw he hs.1, hc.holdLaw he hs.2⟩) he ⟨hpin, hhold⟩ hstep
  · exact step_keeps_law (ofBody_engineLaw.and (ofBody_pinLaw.and ofBody_holdLaw)) ofBody_heldRangeLaw
      (fun _ _ _ hc hq hs => hc.heldRangeLaw hq.1 hq.2.1 hq.2.2 hs) ⟨he, hpin, hhold⟩ hrange hstep

end Sys2Proof.Machine

/-! The engine's phase, context, timers and lines stay consistent (R39, R68 to R75, R96, R119, R161): the laws speak of
the engine alone, which is at rest, in a hold or in an open transaction past its address, and every event moves it from
one of the three to another. -/

namespace Sys2Proof.Machine

/-! ## The laws of the engine alone -/

/-- The phase, the context, the timers, the mark and the lines agree (R39, R68 to R75, R96, R119, R129, R161). -/
structure Engine.Lawful (e : Engine) : Prop where
  ctx : e.ctx.isSome = phasePins e.phase
  holdTimer : e.holdTimer.isSome = (e.phase == .hold)
  stallTimer : e.stallTimer.isSome = phaseSupervised e.phase
  reason : ∀ c, e.ctx = some c → c.holdReason.isSome = (e.phase == .hold)
  reads : ∀ c, e.ctx = some c →
    e.phase = .read ∨ e.phase = .readEnd ∨ c.holdReason = some .fetch → c.direction = .read
  writes : ∀ c, e.ctx = some c →
    e.phase = .pointer ∨ e.phase = .write ∨ c.holdReason = some .space → c.direction = .write
  mark : e.detaching = true → e.phase = .address ∨ phaseSupervised e.phase = true
  ack : ∀ stage, e.sda = .ack stage → e.phase = .pointer ∨ e.phase = .write ∨ e.phase = .read
  driving : e.sda.driving = true → e.phase = .read
  edges : ∀ source value edges, e.sda = .data source value edges → edges ≤ 16
  stretching : e.stretching = true → e.phase = .hold

/-- SDA is pulled low only for an ACK or a read byte, so the first clause of the law of the lines follows from the next two. -/
theorem engineLaws_iff {s : State} : EngineLaw s ∧ LineLaw s ↔ s.engine.Lawful := by
  constructor
  · rintro ⟨⟨hctx, hhold, hstall, hreason, hreads, hwrites, hmark⟩, -, hack, hdriving, hedges, hscl⟩
    exact ⟨hctx, hhold, hstall, hreason, hreads, hwrites, hmark, hack, hdriving, hedges, hscl⟩
  · intro h
    refine ⟨⟨h.ctx, h.holdTimer, h.stallTimer, h.reason, h.reads, h.writes, h.mark⟩, fun hd => ?_, h.ack, h.driving,
      h.edges, h.stretching⟩
    rcases State.sdaDriven_cases hd with ⟨stage, hs⟩ | hs
    · exact h.ack stage hs
    · exact Or.inr (Or.inr (h.driving hs))

/-! ## The three kinds of engine -/

/-- What the part does on SDA fits an open transaction in phase `p` (R68, R70). -/
structure Sda.Fits (x : Sda) (p : Phase) : Prop where
  ack : ∀ stage, x = .ack stage → p ≠ .readEnd
  driving : x.driving = true → p = .read
  edges : ∀ source value edges, x = .data source value edges → edges ≤ 16

theorem Sda.fits_quiet {x : Sda} (h : x = .released ∨ x = .nack) (p : Phase) : x.Fits p := by
  rcases h with rfl | rfl <;> exact ⟨nofun, nofun, nofun⟩

theorem Sda.fits_ack {p : Phase} (h : p ≠ .readEnd) (stage : AckStage) : (Sda.ack stage).Fits p :=
  ⟨fun _ _ => h, nofun, nofun⟩

/-- The direction of a transaction whose address was ACKed in phase `p` (R39, R73). -/
def phaseDirection : Phase → Direction
  | .read | .readEnd => .read
  | .pointer | .write | .detached | .listen | .address | .hold | .ignore | .recover => .write

/-- The direction of a transaction whose address is held (R119). -/
def reasonDirection : HoldReason → Direction
  | .fetch => .read
  | .space => .write

/-- Nothing is pinned: no context, no timer, nothing driven, and the mark stands only in ADDRESS. -/
structure Engine.Rests (e : Engine) : Prop where
  phase : phasePins e.phase = false
  ctx : e.ctx = none
  holdTimer : e.holdTimer = none
  stallTimer : e.stallTimer = none
  stretching : e.stretching = false
  mark : e.detaching = true → e.phase = .address
  sda : e.sda = .released ∨ e.sda = .nack

/-- A transaction is open past its address with context `c`. -/
structure Engine.Open (e : Engine) (c : Context) : Prop where
  phase : phaseSupervised e.phase = true
  ctx : e.ctx = some c
  holdTimer : e.holdTimer = none
  stallTimer : e.stallTimer.isSome = true
  stretching : e.stretching = false
  reason : c.holdReason = none
  direction : c.direction = phaseDirection e.phase
  sda : e.sda.Fits e.phase

/-- An address is held with context `c`. -/
structure Engine.Holds (e : Engine) (c : Context) (reason : HoldReason) : Prop where
  phase : e.phase = .hold
  ctx : e.ctx = some c
  holdTimer : e.holdTimer.isSome = true
  stallTimer : e.stallTimer = none
  mark : e.detaching = false
  holdReason : c.holdReason = some reason
  direction : c.direction = reasonDirection reason
  sda : e.sda = .released ∨ e.sda = .nack

/-- An endpoint is pinned in a hold and in an open transaction past its address (R73, R74). -/
theorem phasePins_eq (p : Phase) : phasePins p = (phaseSupervised p || p == .hold) := by
  cases p <;> rfl

theorem phaseSupervised_eq_true {p : Phase} (h : phaseSupervised p = true) :
    p = .pointer ∨ p = .write ∨ p = .read ∨ p = .readEnd := by
  cases p <;> simp_all [phaseSupervised]

theorem phase_ne_hold_of_supervised {p : Phase} (h : phaseSupervised p = true) : (p == .hold) = false := by
  rcases phaseSupervised_eq_true h with rfl | rfl | rfl | rfl <;> rfl

section

variable {e : Engine} {c : Context}

theorem Engine.Rests.lawful (h : e.Rests) : e.Lawful := by
  obtain ⟨hp, hctx, hhold, hstall, hscl, hmark, hsda⟩ := h
  obtain ⟨hopen, hheld⟩ : phaseSupervised e.phase = false ∧ (e.phase == .hold) = false := by
    rwa [phasePins_eq, Bool.or_eq_false_iff] at hp
  have hnone (c : Context) : e.ctx ≠ some c := by simp [hctx]
  have hfits := Sda.fits_quiet hsda e.phase
  refine ⟨by simp [hctx, hp], by simp [hhold, hheld], by simp [hstall, hopen], fun c hc => absurd hc (hnone c),
    fun c hc => absurd hc (hnone c), fun c hc => absurd hc (hnone c), fun hm => Or.inl (hmark hm), fun stage hack => ?_,
    hfits.driving, hfits.edges, by simp [hscl]⟩
  rcases hsda with h | h <;> rw [h] at hack <;> cases hack

theorem Engine.Open.lawful (h : e.Open c) : e.Lawful := by
  obtain ⟨hp, hctx, hhold, hstall, hscl, hreason, hdir, hsda⟩ := h
  have hheld := phase_ne_hold_of_supervised hp
  have only {d : Context} (hd : e.ctx = some d) : d = c := Option.some.inj (hd.symm.trans hctx)
  refine ⟨by simp [hctx, phasePins_eq, hp], by simp [hhold, hheld], by rw [hstall, hp], fun d hd => ?_, fun d hd hq => ?_,
    fun d hd hq => ?_, fun _ => Or.inr hp, fun stage hack => ?_, hsda.driving, hsda.edges, by simp [hscl]⟩
  · rw [only hd, hreason, hheld]
    rfl
  · rw [only hd] at hq ⊢
    rcases hq with hq | hq | hq
    · rw [hdir, hq, phaseDirection]
    · rw [hdir, hq, phaseDirection]
    · exact absurd (hreason.symm.trans hq) nofun
  · rw [only hd] at hq ⊢
    rcases hq with hq | hq | hq
    · rw [hdir, hq, phaseDirection]
    · rw [hdir, hq, phaseDirection]
    · exact absurd (hreason.symm.trans hq) nofun
  · rcases phaseSupervised_eq_true hp with hq | hq | hq | hq
    · exact Or.inl hq
    · exact Or.inr (Or.inl hq)
    · exact Or.inr (Or.inr hq)
    · exact absurd hq (hsda.ack stage hack)

theorem Engine.Holds.lawful {reason : HoldReason} (h : e.Holds c reason) : e.Lawful := by
  obtain ⟨hp, hctx, hhold, hstall, hmark, hreason, hdir, hsda⟩ := h
  have hfits := Sda.fits_quiet hsda .hold
  refine ⟨by simp [hctx, hp, phasePins], by simp [hhold, hp], by simp [hstall, hp, phaseSupervised], ?_, ?_, ?_,
    by simp [hmark], fun stage hack => ?_, fun hd => Phase.noConfusion (hfits.driving hd), hfits.edges, fun _ => hp⟩
  case refine_4 => rcases hsda with h | h <;> rw [h] at hack <;> cases hack
  all_goals
    rw [hctx]
    rintro _ ⟨⟩
  · simp [hreason, hp]
  · cases reason <;> simp_all [reasonDirection]
  · cases reason <;> simp_all [reasonDirection]

theorem Engine.Lawful.sda_quiet (h : e.Lawful) (hp : e.phase ≠ .pointer) (hw : e.phase ≠ .write)
    (hr : e.phase ≠ .read) : e.sda = .released ∨ e.sda = .nack := by
  cases hsda : e.sda with
  | released => exact Or.inl rfl
  | nack => exact Or.inr rfl
  | ack stage => rcases h.ack stage hsda with hq | hq | hq <;> contradiction
  | data source value edges => exact absurd (h.driving (by rw [hsda, Sda.driving])) hr

theorem Engine.Lawful.rests (h : e.Lawful) (hp : phasePins e.phase = false) : e.Rests := by
  obtain ⟨hopen, hheld⟩ : phaseSupervised e.phase = false ∧ (e.phase == .hold) = false := by
    rwa [phasePins_eq, Bool.or_eq_false_iff] at hp
  have hne {p : Phase} (hpins : phasePins p = true) : e.phase ≠ p := fun hq => by
    rw [hq, hpins] at hp
    cases hp
  refine ⟨hp, ?_, ?_, ?_, ?_, fun hm => (h.mark hm).resolve_right (by simp [hopen]), h.sda_quiet (hne rfl) (hne rfl) (hne rfl)⟩
  · simpa [hp] using h.ctx
  · simpa [hheld] using h.holdTimer
  · simpa [hopen] using h.stallTimer
  · exact Bool.eq_false_iff.2 fun hs => hne rfl (h.stretching hs)

theorem Engine.Lawful.open (h : e.Lawful) (hp : phaseSupervised e.phase = true) : ∃ c, e.Open c := by
  have hheld := phase_ne_hold_of_supervised hp
  have hctx := h.ctx
  rw [phasePins_eq, hp, Bool.true_or, Option.isSome_iff_exists] at hctx
  obtain ⟨c, hc⟩ := hctx
  refine ⟨c, hp, hc, ?_, by rw [h.stallTimer, hp], ?_, ?_, ?_, fun stage hs => ?_, h.driving, h.edges⟩
  · simpa [hheld] using h.holdTimer
  · exact Bool.eq_false_iff.2 fun hs => beq_eq_false_iff_ne.1 hheld (h.stretching hs)
  · simpa [hheld] using h.reason c hc
  · rcases phaseSupervised_eq_true hp with hq | hq | hq | hq <;> rw [hq, phaseDirection]
    · exact h.writes c hc (Or.inl hq)
    · exact h.writes c hc (Or.inr (Or.inl hq))
    · exact h.reads c hc (Or.inl hq)
    · exact h.reads c hc (Or.inr (Or.inl hq))
  · rcases h.ack stage hs with hq | hq | hq <;> rw [hq] <;> exact Phase.noConfusion

theorem Engine.Lawful.holds (h : e.Lawful) (hp : e.phase = .hold) : ∃ c reason, e.Holds c reason := by
  have hctx := h.ctx
  rw [hp, phasePins, Option.isSome_iff_exists] at hctx
  obtain ⟨c, hc⟩ := hctx
  have hreason := h.reason c hc
  rw [hp, beq_self_eq_true, Option.isSome_iff_exists] at hreason
  obtain ⟨reason, hreason⟩ := hreason
  have hmark := h.mark
  refine ⟨c, reason, hp, hc, by simp [h.holdTimer, hp], ?_, ?_, hreason, ?_, ?_⟩
  · simpa [hp, phaseSupervised] using h.stallTimer
  · simpa [hp, phaseSupervised] using hmark
  · cases reason with
    | fetch => exact h.reads c hc (Or.inr (Or.inr hreason))
    | space => exact h.writes c hc (Or.inr (Or.inr hreason))
  · refine h.sda_quiet ?_ ?_ ?_ <;> rw [hp] <;> exact Phase.noConfusion

end

end Sys2Proof.Machine

/-! Every command and event keeps the laws of the engine (O52): which commands reach the engine, what the end of a
transaction, an address byte, the bytes of a transaction and an SCL edge make of it. -/

namespace Sys2Proof.Machine

/-! ## Rest, and the end of a transaction -/

/-- The end of a transaction leaves the engine at rest; one that enters IGNORE never has the mark (R78, R96). -/
theorem Engine.afterEnd_rests {e : Engine} (hctx : e.ctx = none) (hhold : e.holdTimer = none)
    (hstall : e.stallTimer = none) (hscl : e.stretching = false) {cause : EndCause}
    (hmark : cause = .expiry ∨ cause = .retire → e.detaching = false) : (e.afterEnd cause).Rests := by
  cases cause with
  | stop | abandonment =>
    simp only [Engine.afterEnd]
    split
    · exact ⟨rfl, hctx, hhold, hstall, hscl, nofun, Or.inl rfl⟩
    · rename_i hm
      exact ⟨rfl, hctx, hhold, hstall, hscl, fun h => absurd h hm, Or.inl rfl⟩
  | start => exact ⟨rfl, hctx, hhold, hstall, hscl, fun _ => rfl, Or.inl rfl⟩
  | expiry =>
    have hm : e.detaching = false := hmark (Or.inl rfl)
    exact ⟨rfl, hctx, hhold, hstall, hscl, fun h => absurd (hm.symm.trans h) nofun, Or.inr rfl⟩
  | retire =>
    have hm : e.detaching = false := hmark (Or.inr rfl)
    exact ⟨rfl, hctx, hhold, hstall, hscl, fun h => absurd (hm.symm.trans h) nofun, Or.inr rfl⟩
  | detach => exact ⟨rfl, hctx, hhold, hstall, hscl, nofun, Or.inr rfl⟩

theorem Engine.reset_lawful : Engine.reset.Lawful :=
  Engine.Rests.lawful ⟨rfl, rfl, rfl, rfl, rfl, nofun, Or.inl rfl⟩

/-- A resting engine takes another phase in which nothing is pinned. -/
theorem Engine.Rests.enter {e : Engine} (h : e.Rests) {p : Phase} {mark : Bool} {x : Sda} (hp : phasePins p = false)
    (hmark : mark = true → p = .address) (hx : x = .released ∨ x = .nack) :
    Engine.Lawful { e with phase := p, detaching := mark, sda := x } :=
  Engine.Rests.lawful ⟨hp, h.ctx, h.holdTimer, h.stallTimer, h.stretching, hmark, hx⟩

section

variable {s : State}

theorem State.endTransaction_lawful (h : s.engine.Lawful) (hp : phasePins s.engine.phase = true) {cause : EndCause}
    (hmark : cause = .expiry ∨ cause = .retire → s.engine.phase = .hold) :
    (s.endTransaction cause).engine.Lawful := by
  have hctx := h.ctx
  rw [hp, Option.isSome_iff_exists] at hctx
  obtain ⟨c, hc⟩ := hctx
  rw [State.endTransaction_engine, State.unpin_engine hc]
  refine (Engine.afterEnd_rests rfl rfl rfl rfl fun hcause => ?_).lawful
  obtain ⟨_, _, hh⟩ := h.holds (hmark hcause)
  exact hh.mark

/-- A hold that ends with ACK continues in a phase of the direction its context has (R69, R123, R126). -/
theorem State.endHoldWithAck_lawful {c d : Context} {reason : HoldReason} (h : s.engine.Holds c reason)
    (hd : d.direction = c.direction) {p : Phase} (hp : phaseSupervised p = true) (hend : p ≠ .readEnd)
    (hdir : reasonDirection reason = phaseDirection p) : (s.endHoldWithAck d p).engine.Lawful :=
  Engine.Open.lawful (c := { d with holdReason := none })
    ⟨hp, rfl, rfl, rfl, rfl, rfl, (hd.trans h.direction).trans hdir, Sda.fits_ack hend _⟩

/-! ## The commands -/

/-- The commands that reach the engine (R22, R92, R93, R123). -/
def movesEngine : Command → Bool
  | .attach | .detach | .retire | .fill => true
  | .identify | .status | .reset | .credit | .holdLimit | .stallLimit | .install | .activate | .quiesce | .resume
  | .query | .lookup | .touch | .load | .read | .post | .flush => false

theorem movesEngine_eq_true {c : Command} (h : movesEngine c = true) :
    c = .attach ∨ c = .detach ∨ c = .retire ∨ c = .fill := by
  cases c <;> simp_all [movesEngine]

/-- Every other command leaves the engine as it is. -/
theorem commandEffect_engine {c : Command} (hc : movesEngine c = false) (p : List Byte) (s : State) :
    (commandEffect c p s).1.engine = s.engine := by
  cases c <;> simp only [commandEffect]
  case attach | detach | retire | fill => exact absurd hc nofun
  case identify => rfl
  case status => rcases statusEffect_cases p s with h | h <;> rw [h]
  case credit => rcases creditEffect_cases p s with h | ⟨n, -, h⟩ <;> rw [h]
  case holdLimit => rcases holdLimitEffect_cases p s with h | ⟨-, h⟩ <;> rw [h]
  case stallLimit => rcases stallLimitEffect_cases p s with h | ⟨-, -, h⟩ <;> rw [h]
  case install => rcases installEffect_cases p s with h | ⟨i, -, h⟩ <;> rw [h]; exact s.installAt_engine i _
  case activate => rcases activateEffect_cases p s with h | ⟨i, r, -, -, h⟩ <;> rw [h]; rfl
  case quiesce => rcases quiesceEffect_cases p s with h | ⟨i, r, -, -, h⟩ <;> rw [h]; rfl
  case resume => rcases resumeEffect_cases p s with h | ⟨i, r, -, -, h⟩ <;> rw [h]; rfl
  case query => rw [queryEffect_fst]
  case lookup => rw [lookupEffect_fst]
  case touch => rcases touchEffect_cases p s with h | ⟨i, r, -, -, h⟩ <;> rw [h]; rw [State.refresh_eq]
  case load =>
    rcases loadEffect_cases p s with h | ⟨i, r, b, offset, data, -, -, -, -, -, ⟨-, -, h⟩ | ⟨-, h⟩⟩ <;> rw [h] <;>
      rw [State.refresh_eq]
    rfl
  case read => rw [readEffect_fst]
  case post => rcases postEffect_cases p s with h | ⟨i, r, m, k, rest, msg, -, -, -, -, -, -, -, h⟩ <;> rw [h]; rfl
  case flush => rcases flushEffect_cases p s with h | ⟨i, r, m, -, -, ⟨-, h⟩ | ⟨k, -, h⟩⟩ <;> rw [h] <;> rfl

theorem attachEffect_lawful (p : List Byte) (h : s.engine.Lawful) : (attachEffect p s).1.engine.Lawful := by
  change s.engine.attach.Lawful
  by_cases hd : s.engine.phase = .detached
  · have hr := h.rests (by rw [hd, phasePins])
    have hm : s.engine.detaching = false := Bool.eq_false_iff.2 fun hm => by
      have := hr.mark hm
      rw [hd] at this
      cases this
    rw [Engine.attach_of_detached hd]
    exact hr.enter rfl (fun ht => absurd (hm.symm.trans ht) nofun) hr.sda
  · rw [Engine.attach_of_attached hd]
    exact { h with mark := nofun }

theorem detachEffect_lawful (p : List Byte) (h : s.engine.Lawful) : (detachEffect p s).1.engine.Lawful := by
  rcases detachEffect_cases p s with he | ⟨hp, he⟩ | ⟨hp, he⟩ | ⟨hp, he⟩ <;> rw [he]
  · exact h
  · exact s.endTransaction_lawful h (by rw [hp, phasePins]) nofun
  · exact (h.rests hp).enter rfl nofun (Or.inl rfl)
  · exact { h with mark := fun _ => Or.inr hp }

theorem retireEffect_lawful (p : List Byte) (h : s.engine.Lawful) : (retireEffect p s).1.engine.Lawful := by
  rcases retireEffect_cases p s with he | ⟨i, r, -, -, ⟨-, he⟩ | ⟨-, hp, he⟩ | ⟨-, -, he⟩⟩ <;> rw [he]
  · exact h
  · rwa [State.freeRecord_engine]
  · rw [State.freeRecord_engine]
    exact s.endTransaction_lawful h (by rw [hp, phasePins]) fun _ => hp
  · exact h

theorem fillEffect_lawful (p : List Byte) (h : s.engine.Lawful) : (fillEffect p s).1.engine.Lawful := by
  rcases fillEffect_cases p s with he | ⟨i, r, b, offset, data, -, -, -, -, -,
    ⟨-, -, he⟩ | ⟨-, he⟩ | ⟨c, hc, -, hp, hreason, -, he⟩⟩ <;> rw [he]
  · exact h
  · rwa [State.refresh_eq]
  · rwa [State.refresh_eq]
  · obtain ⟨d, reason, hh⟩ := h.holds hp
    obtain rfl : d = c := Option.some.inj (hh.ctx.symm.trans hc)
    obtain rfl : reason = .fetch := Option.some.inj (hh.holdReason.symm.trans hreason)
    rw [State.refresh_eq]
    exact State.endHoldWithAck_lawful hh rfl rfl Phase.noConfusion rfl

/-- Every command keeps the laws of the engine. -/
theorem commandEffect_lawful (c : Command) (p : List Byte) (h : s.engine.Lawful) :
    (commandEffect c p s).1.engine.Lawful := by
  cases hc : movesEngine c with
  | false => rwa [commandEffect_engine hc]
  | true =>
    rcases movesEngine_eq_true hc with rfl | rfl | rfl | rfl
    · exact attachEffect_lawful p h
    · exact detachEffect_lawful p h
    · exact retireEffect_lawful p h
    · exact fillEffect_lawful p h

theorem runCommand_lawful (c : Command) (h : s.engine.Lawful) :
    (s.runCommand c (commandEffect c)).engine.Lawful :=
  runCommand_keeps (P := fun s => s.engine.Lawful) (fun _ _ h => h) (fun p _ h => commandEffect_lawful c p h) h

theorem takeReset_lawful (h : s.engine.Lawful) : s.takeReset.engine.Lawful := by
  unfold State.takeReset
  split
  · exact h
  · split
    · split
      · exact Engine.reset_lawful
      · exact h
    · exact h

/-! ## The link -/

theorem takeUnknown_lawful (h : s.engine.Lawful) : s.takeUnknown.engine.Lawful := by
  unfold State.takeUnknown
  split
  · exact h
  · split <;> exact h

theorem takeDuplicate_lawful (h : s.engine.Lawful) : s.takeDuplicate.engine.Lawful := by
  unfold State.takeDuplicate
  split
  · split <;> exact h
  · exact h

/-- The grant of a SPACE hold opens the write that was held (R126). -/
theorem grantSpace_lawful (h : s.engine.Lawful) : s.grantSpace.engine.Lawful := by
  rcases s.grantSpace_cases with he | ⟨c, r, hc, -, hp, hreason, -, he⟩ <;> rw [he]
  · exact h
  · obtain ⟨d, reason, hh⟩ := h.holds hp
    obtain rfl : d = c := Option.some.inj (hh.ctx.symm.trans hc)
    obtain rfl : reason = .space := Option.some.inj (hh.holdReason.symm.trans hreason)
    have open_in {p : Phase} (hopen : phaseSupervised p = true) (hend : p ≠ .readEnd) (hdir : .write = phaseDirection p) :
        (State.endHoldWithAck { s with notices := s.notices.reserve } { d with reserved := true } p).engine.Lawful :=
      State.endHoldWithAck_lawful (s := { s with notices := s.notices.reserve }) (d := { d with reserved := true })
        hh rfl hopen hend hdir
    cases r.content with
    | bank b => exact open_in rfl Phase.noConfusion rfl
    | mailbox m => exact open_in rfl Phase.noConfusion rfl

theorem frameSent_lawful (h : s.engine.Lawful) : s.frameSent.engine.Lawful := by
  unfold State.frameSent
  split
  · exact h
  · rename_i x _
    rw [State.arbitrate_engine]
    cases x with
    | hello f => exact h
    | response f => exact h
    | notice f o => exact grantSpace_lawful (s := { s.lineIdle with notices := _ }) h

theorem endHardReset_lawful (h : s.engine.Lawful) (bsel1 bsel0 lrxHigh : Bool) :
    (s.endHardReset bsel1 bsel0 lrxHigh).engine.Lawful := by
  unfold State.endHardReset
  split
  · exact Engine.reset_lawful
  · exact h

/-! ## Conditions and the address byte -/

theorem startCondition_lawful (h : s.engine.Lawful) : s.startCondition.engine.Lawful := by
  rcases s.startCondition_cases with ⟨-, he⟩ | ⟨hp, -, he⟩ | ⟨hp, he⟩ <;> rw [he]
  · exact h
  · exact (h.rests hp).enter rfl (fun _ => rfl) (Or.inl rfl)
  · exact s.endTransaction_lawful h hp nofun

theorem stopCondition_lawful (h : s.engine.Lawful) : s.stopCondition.engine.Lawful := by
  rcases s.stopCondition_cases with ⟨-, he⟩ | ⟨hp, hmark, -, he⟩ | ⟨hp, -, he⟩ | ⟨hp, he⟩ <;> rw [he]
  · exact h
  · have hr := h.rests hp
    exact hr.enter rfl (fun hm => absurd ((hmark (hr.mark hm)).symm.trans hm) nofun) (Or.inl rfl)
  · exact (h.rests (by rw [hp, phasePins])).enter rfl nofun (Or.inl rfl)
  · exact s.endTransaction_lawful h hp nofun

/-- An ACK of an address that needs no fetch opens a transaction of the byte's direction (R39). -/
theorem ackAddress_lawful (h : s.engine.Rests) (i : Slot) (r : Record) (d : Direction) (reserved : Bool) :
    (s.ackAddress i r d reserved).engine.Lawful := by
  refine Engine.Open.lawful (c := newContext i r d none reserved)
    ⟨?_, rfl, rfl, rfl, h.stretching, rfl, ?_, Sda.fits_ack ?_ _⟩ <;> cases d <;>
    simp only [State.ackAddress, ackPhase, newContext] <;> cases r.content <;> first | rfl | exact Phase.noConfusion

theorem holdAddress_lawful (hm : s.engine.detaching = false) (i : Slot) (r : Record) (reason : HoldReason) :
    (s.holdAddress i r (reasonDirection reason) reason).engine.Lawful :=
  Engine.Holds.lawful (c := newContext i r (reasonDirection reason) (some reason) false) (reason := reason)
    ⟨rfl, rfl, rfl, rfl, hm, rfl, rfl, Or.inl rfl⟩

theorem nackAddress_lawful (h : s.engine.Rests) (hm : s.engine.detaching = false) : s.nackAddress.engine.Lawful :=
  h.enter rfl (fun ht => absurd (hm.symm.trans ht) nofun) (Or.inr rfl)

/-- Only a read is held for a FETCH, and only a write for notice space (R36). -/
theorem direction_of_addressOutcome {r : Record} {d : Direction} :
    (addressOutcome r d = .fetch → d = reasonDirection .fetch) ∧
      (addressOutcome r d = .reserve → d = reasonDirection .space) := by
  rcases addressOutcome_cases r d with h | ⟨-, ⟨h, hd⟩ | ⟨h, hd⟩ | h⟩ <;> rw [h]
  · exact ⟨nofun, nofun⟩
  · exact ⟨fun _ => hd, nofun⟩
  · exact ⟨nofun, fun _ => hd⟩
  · exact ⟨nofun, nofun⟩

theorem answerAddress_lawful (h : s.engine.Rests) (hm : s.engine.detaching = false) (a : Address) (d : Direction) :
    (s.answerAddress a d).engine.Lawful := by
  rcases s.answerAddress_cases a d with he | ⟨i, r, -, hcases⟩
  · rw [he]
    exact nackAddress_lawful h hm
  rcases hcases with ⟨-, he⟩ | ⟨ho, n, -, ⟨-, he⟩ | ⟨-, he⟩⟩ | ⟨ho, ⟨-, he⟩ | ⟨-, he⟩⟩ <;> rw [he]
  · exact ackAddress_lawful h i r d false
  · rw [direction_of_addressOutcome.1 ho]
    exact holdAddress_lawful (s := s.raise n) hm i r .fetch
  · exact nackAddress_lawful (s := s.raise n) h hm
  · exact ackAddress_lawful (s := { s with notices := s.notices.reserve }) h i r d true
  · rw [direction_of_addressOutcome.2 ho]
    exact holdAddress_lawful hm i r .space

theorem addressByte_lawful (h : s.engine.Lawful) (v : Byte) : (s.addressByte v).engine.Lawful := by
  unfold State.addressByte
  split
  · rename_i hp
    have hr := h.rests (by rw [hp, phasePins])
    split
    · exact hr.enter rfl nofun (Or.inr rfl)
    · rename_i hm
      exact answerAddress_lawful hr (Bool.eq_false_iff.2 hm) _ _
  · exact h

/-! ## The bytes of a transaction -/

/-- A byte of an open write is answered in WRITE, whatever else it writes down in the context (R84 to R91). -/
theorem Engine.Open.answer {e : Engine} {c d : Context} (h : e.Open c) (hp : e.phase = .pointer ∨ e.phase = .write)
    (hreason : d.holdReason = c.holdReason) (hdir : d.direction = c.direction) {x : Sda} (hx : x.Fits .write) :
    Engine.Lawful { e with phase := .write, ctx := some d, sda := x } := by
  have hwrite : c.direction = .write := by
    rcases hp with hp | hp <;> rw [h.direction, hp, phaseDirection]
  exact Engine.Open.lawful
    ⟨rfl, rfl, h.holdTimer, h.stallTimer, h.stretching, hreason.trans h.reason, hdir.trans hwrite, hx⟩

/-- The open transaction of which a byte has come. -/
theorem Engine.Lawful.open_of_ctx {e : Engine} {c : Context} (h : e.Lawful) (hp : phaseSupervised e.phase = true)
    (hc : e.ctx = some c) : e.Open c := by
  obtain ⟨d, hd⟩ := h.open hp
  obtain rfl : d = c := Option.some.inj (hd.ctx.symm.trans hc)
  exact hd

theorem pointerByte_lawful (h : s.engine.Lawful) (v : Byte) : (s.pointerByte v).engine.Lawful := by
  unfold State.pointerByte
  split
  · exact h
  · rename_i c r b hopen
    obtain ⟨hp, hc, -, -⟩ := State.openBank_eq_some hopen
    have hc := h.open_of_ctx (by rw [hp, phaseSupervised]) hc
    split
    · exact hc.answer (Or.inl hp) (by rfl) (by rfl) (Sda.fits_ack Phase.noConfusion _)
    · exact hc.answer (Or.inl hp) (by rfl) (by rfl) (Sda.fits_quiet (Or.inr rfl) _)

theorem bankWriteByte_lawful (h : s.engine.Lawful) (v : Byte) : (s.bankWriteByte v).engine.Lawful := by
  unfold State.bankWriteByte
  split
  · exact h
  · rename_i c r b hopen
    obtain ⟨hp, hc, -, -⟩ := State.openBank_eq_some hopen
    have hc := h.open_of_ctx (by rw [hp, phaseSupervised]) hc
    have hnack : (s.nackByte c).engine.Lawful := hc.answer (Or.inr hp) (by rfl) (by rfl) (Sda.fits_quiet (Or.inr rfl) _)
    have hack {d : Context} (hreason : d.holdReason = c.holdReason) (hdir : d.direction = c.direction) :
        (s.ackByte d).engine.Lawful := hc.answer (Or.inr hp) hreason hdir (Sda.fits_ack Phase.noConfusion _)
    split
    · exact hnack
    · split
      · exact hnack
      · unfold State.applyByte
        split
        · exact hack rfl rfl
        · exact hnack
      · unfold State.forwardByte
        split
        · exact hack rfl rfl
        · exact hnack

theorem mailboxWriteByte_lawful (h : s.engine.Lawful) (v : Byte) : (s.mailboxWriteByte v).engine.Lawful := by
  unfold State.mailboxWriteByte
  split
  · exact h
  · rename_i c r m hopen
    obtain ⟨hp, hc, -, -⟩ := State.openMailbox_eq_some hopen
    have hc := h.open_of_ctx (by rw [hp, phaseSupervised]) hc
    split
    · exact hc.answer (Or.inr hp) (by rfl) (by rfl) (Sda.fits_ack Phase.noConfusion _)
    · exact hc.answer (Or.inr hp) (by rfl) (by rfl) (Sda.fits_quiet (Or.inr rfl) _)

/-- The first bit of a read byte is placed in READ (R70). -/
theorem drive_lawful {c d : Context} (h : s.engine.Lawful) (hp : s.engine.phase = .read) (hc : s.engine.ctx = some c)
    (hreason : d.holdReason = c.holdReason) (hdir : d.direction = c.direction) (source : ReadSource) (v : Byte) :
    (s.drive d source v).engine.Lawful := by
  have hc := h.open_of_ctx (by rw [hp, phaseSupervised]) hc
  refine Engine.Open.lawful ⟨hc.phase, rfl, hc.holdTimer, hc.stallTimer, hc.stretching, hreason.trans hc.reason,
    hdir.trans hc.direction, nofun, fun _ => hp, ?_⟩
  rintro _ _ _ ⟨⟩
  exact Nat.zero_le 16

theorem readByteDrive_lawful (h : s.engine.Lawful) : s.readByteDrive.engine.Lawful := by
  unfold State.readByteDrive
  split
  · exact h
  · split
    · rename_i c r b _ hopen
      obtain ⟨hp, hc, -, -⟩ := State.openBank_eq_some hopen
      unfold State.driveBank
      split <;> exact drive_lawful h hp hc (by rfl) (by rfl) _ _
    · rename_i c r m _ hopen
      obtain ⟨hp, hc, -, -⟩ := State.openMailbox_eq_some hopen
      unfold State.driveMailbox
      split
      · split <;> exact drive_lawful h hp hc (by rfl) (by rfl) _ _
      · exact drive_lawful h hp hc (by rfl) (by rfl) _ _
      · split <;> exact drive_lawful h hp hc (by rfl) (by rfl) _ _
    · exact h

/-- What the acknowledge clock counts moves at most the number of bytes served in the context. -/
theorem State.countDriven_engine {c : Context} (hc : s.engine.ctx = some c) (source : ReadSource) :
    ∃ d : Context, d.holdReason = c.holdReason ∧ d.direction = c.direction ∧
      (s.countDriven source).engine = { s.engine with ctx := some d } := by
  have hsame : s.engine = { s.engine with ctx := some c } := by rw [← hc]
  cases source with
  | message => exact ⟨{ c with headServed := c.headServed + 1 }, rfl, rfl, by simp only [State.countDriven, hc]⟩
  | length => exact ⟨c, rfl, rfl, hsame⟩
  | pad => exact ⟨c, rfl, rfl, hsame⟩
  | window =>
    refine ⟨c, rfl, rfl, ?_⟩
    simp only [State.countDriven]
    split
    · split <;> exact hsame
    · exact hsame

theorem readByteAcknowledge_lawful (h : s.engine.Lawful) (ack : Bool) :
    (s.readByteAcknowledge ack).engine.Lawful := by
  unfold State.readByteAcknowledge
  split
  · rename_i hp
    split
    · rename_i source _ _ _
      obtain ⟨c, hc⟩ := h.open (by rw [hp, phaseSupervised])
      obtain ⟨d, hreason, hdir, he⟩ := State.countDriven_engine hc.ctx source
      have hread : d.direction = .read := by rw [hdir, hc.direction, hp, phaseDirection]
      rw [State.enterPhase_engine, he]
      cases ack <;> exact Engine.Open.lawful ⟨rfl, rfl, hc.holdTimer, hc.stallTimer, hc.stretching,
        hreason.trans hc.reason, hread, Sda.fits_quiet (Or.inl rfl) _⟩
    all_goals exact h
  · exact h

/-- An SCL edge moves what the part does on SDA within its phase (R68, R70). -/
theorem Sda.Fits.atEdge {x : Sda} {p : Phase} (h : x.Fits p) (edge : Edge) : (x.atEdge edge).Fits p := by
  refine ⟨fun stage hs => ?_, fun hd => h.driving (by rwa [Sda.driving_atEdge] at hd), fun source value edges hs => ?_⟩
  · obtain ⟨k, hk⟩ := Sda.ack_of_atEdge hs
    exact h.ack k hk
  · cases x with
    | data source' value' edges' =>
      cases hs
      exact bitEdge_le edge (h.edges _ _ _ rfl)
    | ack stage => cases stage <;> cases edge <;> cases hs
    | released => cases hs
    | nack => cases hs

theorem sclEdge_lawful (h : s.engine.Lawful) (edge : Edge) : (s.sclEdge edge).engine.Lawful := by
  unfold State.sclEdge
  split
  · rename_i hp
    obtain ⟨c, hc⟩ := h.open hp
    exact Engine.Open.lawful ⟨hc.phase, hc.ctx, hc.holdTimer, (Option.isSome_map ..).trans hc.stallTimer, hc.stretching,
      hc.reason, hc.direction, hc.sda.atEdge edge⟩
  · split
    · rename_i hp
      exact { h with stretching := fun _ => hp }
    · exact h

/-! ## The expiries -/

theorem holdExpiry_lawful (h : s.engine.Lawful) : s.holdExpiry.engine.Lawful := by
  rcases s.holdExpiry_cases with he | ⟨c, reason, n, -, -, hp, -, he⟩ <;> rw [he]
  · exact h
  · exact s.endTransaction_lawful (cause := .expiry) h (by rw [hp, phasePins]) fun _ => hp

theorem abandonment_lawful (h : s.engine.Lawful) : s.abandonment.engine.Lawful := by
  rcases s.abandonment_cases with he | ⟨c, n, -, hp, -, he⟩ <;> rw [he]
  · exact h
  · exact s.endTransaction_lawful (cause := .abandonment) h (by rw [phasePins_eq, hp, Bool.true_or]) nofun

theorem freshnessTick_lawful (h : s.engine.Lawful) (n : Nat) : (s.freshnessTick n).engine.Lawful := by
  rcases s.freshnessTick_cases n with he | ⟨i, r, -, -, he | ⟨-, he⟩⟩ <;> rw [he] <;> exact h

theorem freshnessExpiry_lawful (h : s.engine.Lawful) (n : Nat) : (s.freshnessExpiry n).engine.Lawful := by
  rcases s.freshnessExpiry_cases n with he | ⟨i, r, -, -, he⟩ <;> rw [he] <;> exact h

end

/-! ## Every command and event -/

theorem effectOf_lawful (i : Instr) (s : State) (h : s.engine.Lawful) : (effectOf i s).engine.Lawful := by
  cases i with
  | identify => exact runCommand_lawful .identify h
  | status => exact runCommand_lawful .status h
  | reset => exact takeReset_lawful h
  | credit => exact runCommand_lawful .credit h
  | attach => exact runCommand_lawful .attach h
  | detach => exact runCommand_lawful .detach h
  | holdLimit => exact runCommand_lawful .holdLimit h
  | stallLimit => exact runCommand_lawful .stallLimit h
  | install => exact runCommand_lawful .install h
  | activate => exact runCommand_lawful .activate h
  | quiesce => exact runCommand_lawful .quiesce h
  | resume => exact runCommand_lawful .resume h
  | retire => exact runCommand_lawful .retire h
  | query => exact runCommand_lawful .query h
  | lookup => exact runCommand_lawful .lookup h
  | touch => exact runCommand_lawful .touch h
  | load => exact runCommand_lawful .load h
  | read => exact runCommand_lawful .read h
  | fill => exact runCommand_lawful .fill h
  | post => exact runCommand_lawful .post h
  | flush => exact runCommand_lawful .flush h
  | unknownCommand => exact takeUnknown_lawful h
  | duplicate => exact takeDuplicate_lawful h
  | frameReceived crc =>
    change (s.takeCrc crc).engine.Lawful
    rwa [State.takeCrc_frame]
  | framingError => rwa [effectOf, State.framingError_frame]
  | gapTimeout => rwa [effectOf, State.gapTimeout_frame]
  | linkReset => rwa [effectOf, State.linkReset_frame]
  | breakEnd => rwa [effectOf, State.breakEnd_frame]
  | frameStart => rwa [effectOf, State.arbitrate_engine]
  | frameSent => exact frameSent_lawful h
  | hardwareReset => exact Engine.reset_lawful
  | hardwareResetEnd bsel1 bsel0 lrxHigh => exact endHardReset_lawful h bsel1 bsel0 lrxHigh
  | startCondition => exact startCondition_lawful h
  | stopCondition => exact stopCondition_lawful h
  | addressByte value => exact addressByte_lawful h value
  | pointerByte value => exact pointerByte_lawful h value
  | bankWriteByte value => exact bankWriteByte_lawful h value
  | mailboxWriteByte value => exact mailboxWriteByte_lawful h value
  | readByteDrive => exact readByteDrive_lawful h
  | readByteAcknowledge ack => exact readByteAcknowledge_lawful h ack
  | holdExpiry => exact holdExpiry_lawful h
  | abandonment => exact abandonment_lawful h
  | freshnessTick slot => exact freshnessTick_lawful h slot
  | freshnessExpiry slot => exact freshnessExpiry_lawful h slot
  | characterReceived value =>
    change (s.takeCharacter value).engine.Lawful
    rwa [State.takeCharacter_frame]
  | sclEdge edge => exact sclEdge_lawful h edge

/-- Settles O52: the engine is at rest, in a hold or in an open transaction, and every event moves it between the
three. -/
theorem everyStepKeepsTheEngineLaws : Obligations.EveryStepKeepsTheEngineLaws := by
  intro s t hengine hline ht
  exact engineLaws_iff.2 (step_keeps (P := fun s => s.engine.Lawful) (fun _ _ h => h) effectOf_lawful
    (engineLaws_iff.1 ⟨hengine, hline⟩) ht)

end Sys2Proof.Machine

/-! The queues of the link stay within four frames and the frame on LTX stays with its source (O58; R145, R173, R177 to
R179): an event either clears the link, starts or releases a frame, or leaves the frame on LTX and only adds behind its
source. -/

namespace Sys2Proof.Machine

/-! ## What is added behind a source -/

/-- Notices are only added, at the tail. -/
def Grows (p q : NoticeQueue) : Prop := p.completed <+: q.completed

theorem Grows.refl (p : NoticeQueue) : Grows p p := List.prefix_refl _

theorem Grows.trans {p q r : NoticeQueue} (h : Grows p q) (k : Grows q r) : Grows p r := List.IsPrefix.trans h k

theorem Grows.raise (p : NoticeQueue) (n : Notice) : Grows p (p.raise n) := by
  rcases p.raise_cases n with ⟨-, h⟩ | ⟨-, h⟩ <;> rw [h]
  · exact List.prefix_append _ _
  · exact List.prefix_refl _

theorem State.endTransaction_grows (s : State) (cause : EndCause) :
    Grows s.notices (s.endTransaction cause).notices := by
  obtain ⟨l, hl⟩ := s.endTransaction_completed cause
  rw [Grows, hl]
  exact List.prefix_append _ _

/-- The head of a list stays the head of any list it begins. -/
theorem head?_of_prefix {α : Type} {l m : List α} (h : l <+: m) {a : α} (ha : l.head? = some a) : m.head? = some a := by
  obtain ⟨k, rfl⟩ := h
  rw [List.head?_append, ha, Option.some_or]

section

variable {s t : State}

/-- The frame on LTX stays with its source while nothing is taken from the front of the source. -/
theorem LinkLaw.of_growth (h : LinkLaw s) (hinbox : t.link.inbox.length ≤ 4) (hroom : t.link.responses.length ≤ 4)
    (hsending : t.link.sending = s.link.sending) (hhello : s.link.hello.isSome = true → t.link.hello.isSome = true)
    (hresponses : s.link.responses <+: t.link.responses) (hnotices : Grows s.notices t.notices) : LinkLaw t := by
  refine ⟨hinbox, hroom, ?_⟩
  obtain ⟨-, -, hsource⟩ := h
  rw [hsending]
  split
  · trivial
  · rename_i hs
    rw [hs] at hsource
    exact hhello hsource
  · rename_i hs
    rw [hs] at hsource
    exact head?_of_prefix hresponses hsource
  · rename_i hs
    rw [hs] at hsource
    exact List.IsPrefix.ne_nil hnotices hsource

/-- An event outside the link that only adds notices. -/
theorem LinkLaw.of_grows (h : LinkLaw s) (hlink : t.link = s.link) (hnotices : Grows s.notices t.notices) :
    LinkLaw t := by
  refine h.of_growth ?_ ?_ ?_ ?_ ?_ hnotices <;> rw [hlink]
  · exact h.1
  · exact h.2.1
  · exact id

/-- With nothing on LTX only the two bounds are asked. -/
theorem linkLaw_of_idle (hsending : t.link.sending = none) (hinbox : t.link.inbox.length ≤ 4)
    (hroom : t.link.responses.length ≤ 4) : LinkLaw t := by
  refine ⟨hinbox, hroom, ?_⟩
  rw [hsending]
  trivial

/-- A cleared link. -/
theorem linkLaw_of_cleared {x : Receiver} {hello : Option HelloCause} (h : t.link = clearedLink x hello) : LinkLaw t :=
  linkLaw_of_idle (by rw [h]; rfl) (by rw [h]; exact Nat.zero_le 4) (by rw [h]; exact Nat.zero_le 4)

/-! ## The Command Engine -/

/-- No command takes a notice from the queue. -/
theorem commandEffect_grows (c : Command) (p : List Byte) (s : State) :
    Grows s.notices (commandEffect c p s).1.notices := by
  cases c <;> simp only [commandEffect]
  case identify | reset | attach => exact .refl _
  case status => rcases statusEffect_cases p s with h | h <;> rw [h] <;> exact .refl _
  case credit => rcases creditEffect_cases p s with h | ⟨n, -, h⟩ <;> rw [h] <;> exact .refl _
  case detach =>
    rcases detachEffect_cases p s with h | ⟨-, h⟩ | ⟨-, h⟩ | ⟨-, h⟩ <;> rw [h]
    · exact .refl _
    · exact s.endTransaction_grows _
    · exact .refl _
    · exact .refl _
  case holdLimit => rcases holdLimitEffect_cases p s with h | ⟨-, h⟩ <;> rw [h] <;> exact .refl _
  case stallLimit => rcases stallLimitEffect_cases p s with h | ⟨-, -, h⟩ <;> rw [h] <;> exact .refl _
  case install =>
    rcases installEffect_cases p s with h | ⟨i, -, h⟩ <;> rw [h]
    · exact .refl _
    · unfold State.installAt
      simp only
      split <;> exact .refl _
  case activate => rcases activateEffect_cases p s with h | ⟨i, r, -, -, h⟩ <;> rw [h] <;> exact .refl _
  case quiesce => rcases quiesceEffect_cases p s with h | ⟨i, r, -, -, h⟩ <;> rw [h] <;> exact .refl _
  case resume => rcases resumeEffect_cases p s with h | ⟨i, r, -, -, h⟩ <;> rw [h] <;> exact .refl _
  case retire =>
    rcases retireEffect_cases p s with h | ⟨i, r, -, -, ⟨-, h⟩ | ⟨-, -, h⟩ | ⟨-, -, h⟩⟩ <;> rw [h]
    · exact .refl _
    · rw [State.freeRecord_notices]
      exact .refl _
    · rw [State.freeRecord_notices]
      exact s.endTransaction_grows _
    · exact .refl _
  case query =>
    rw [queryEffect_fst]
    exact .refl _
  case lookup =>
    rw [lookupEffect_fst]
    exact .refl _
  case touch =>
    rcases touchEffect_cases p s with h | ⟨i, r, -, -, h⟩ <;> rw [h]
    · exact .refl _
    · rw [State.refresh_eq]
      exact .refl _
  case load =>
    rcases loadEffect_cases p s with h | ⟨i, r, b, offset, data, -, -, -, -, -, ⟨-, -, h⟩ | ⟨-, h⟩⟩ <;> rw [h]
    · exact .refl _
    · rw [State.refresh_eq]
      exact .refl _
    · rw [State.refresh_eq]
      exact .refl _
  case read =>
    rw [readEffect_fst]
    exact .refl _
  case fill =>
    rcases fillEffect_cases p s with h | ⟨i, r, b, offset, data, -, -, -, -, -,
      ⟨-, -, h⟩ | ⟨-, h⟩ | ⟨c, -, -, -, -, -, h⟩⟩ <;> rw [h]
    · exact .refl _
    · rw [State.refresh_eq]
      exact .refl _
    · rw [State.refresh_eq]
      exact .refl _
    · rw [State.refresh_eq]
      exact .refl _
  case post =>
    rcases postEffect_cases p s with h | ⟨i, r, m, k, rest, msg, -, -, -, -, -, -, -, h⟩ <;> rw [h] <;> exact .refl _
  case flush =>
    rcases flushEffect_cases p s with h | ⟨i, r, m, -, -, ⟨-, h⟩ | ⟨k, -, h⟩⟩ <;> rw [h] <;> exact .refl _

/-- An answer joins the Response Queue, which had room, and the inbox has lost its head (R175, R177). -/
theorem LinkLaw.of_answer (h : LinkLaw s) {f g : Frame} {cache : Option CacheEntry} (ht : takeable s.link = some f)
    (hlink : t.link =
      { s.link with inbox := s.link.inbox.tail, responses := s.link.responses ++ [g], cache := cache })
    (hnotices : Grows s.notices t.notices) : LinkLaw t := by
  obtain ⟨hroom, -⟩ := takeable_eq_some.1 ht
  refine h.of_growth ?_ ?_ ?_ ?_ ?_ hnotices <;> rw [hlink]
  · have := h.1
    simp only [List.length_tail]
    omega
  · simp only [List.length_append, List.length_cons, List.length_nil]
    omega
  · exact id
  · exact List.prefix_append _ _

theorem runCommand_linkLaw (c : Command) (h : LinkLaw s) : LinkLaw (s.runCommand c (commandEffect c)) := by
  rcases s.runCommand_cases c (commandEffect c) with ⟨he, -⟩ | ⟨f, ht, -, -, -, he⟩ | ⟨f, ht, -, -, -, he⟩ <;> rw [he]
  · exact h
  · exact h.of_answer ht rfl (.refl _)
  · rw [State.respond_eq (sameLink_commandEffect c f.payload s.dropHead).link]
    exact h.of_answer ht rfl (commandEffect_grows c f.payload s.dropHead)

theorem takeReset_linkLaw (h : LinkLaw s) : LinkLaw s.takeReset := by
  unfold State.takeReset
  split
  · exact h
  · rename_i f ht
    split
    · split
      · exact linkLaw_of_cleared rfl
      · exact h.of_answer ht rfl (.refl _)
    · exact h

theorem takeUnknown_linkLaw (h : LinkLaw s) : LinkLaw s.takeUnknown := by
  unfold State.takeUnknown
  split
  · exact h
  · rename_i f ht
    split
    · exact h.of_answer ht rfl (.refl _)
    · exact h

theorem takeDuplicate_linkLaw (h : LinkLaw s) : LinkLaw s.takeDuplicate := by
  unfold State.takeDuplicate
  split
  · rename_i f e ht _
    split
    · exact h.of_answer ht rfl (.refl _)
    · exact h
  · exact h

/-! ## The Link Receiver -/

/-- Only the receiver, and with it a counter, has moved. -/
theorem LinkLaw.of_receiver (h : LinkLaw s) {x : Receiver} (hlink : t.link = { s.link with receiver := x })
    (hnotices : t.notices = s.notices) : LinkLaw t := by
  refine h.of_growth ?_ ?_ ?_ ?_ ?_ (hnotices ▸ .refl _) <;> rw [hlink]
  · exact h.1
  · exact h.2.1
  · exact id

/-- A frame joins the inbox only while it holds fewer than 4 (R173). -/
theorem deliver_linkLaw (h : LinkLaw s) (f : Frame) : LinkLaw (s.deliver f) := by
  unfold State.deliver
  split
  · rename_i hroom
    refine h.of_growth ?_ h.2.1 rfl id (List.prefix_refl _) (.refl _)
    rw [List.length_append, List.length_singleton]
    exact hroom
  · exact h.of_grows rfl (.refl _)

theorem endFrame_linkLaw (h : LinkLaw s) (len : Nat) (got : List Byte) (crc : Byte) : LinkLaw (s.endFrame len got crc) := by
  unfold State.endFrame
  split
  · exact deliver_linkLaw (s := s.setReceiver .hunt) (h.of_receiver rfl rfl) _
  · exact h.of_receiver rfl rfl

theorem huntCharacter_linkLaw (h : LinkLaw s) (v : Byte) : LinkLaw (s.huntCharacter v) := by
  unfold State.huntCharacter
  split <;> exact h.of_receiver rfl rfl

theorem takeCharacter_linkLaw (h : LinkLaw s) (v : Byte) : LinkLaw (s.takeCharacter v) := by
  unfold State.takeCharacter
  split
  · exact huntCharacter_linkLaw h v
  · split
    · exact h.of_receiver rfl rfl
    · exact huntCharacter_linkLaw h v
  · split
    · exact h.of_receiver rfl rfl
    · exact endFrame_linkLaw h _ _ _
  · exact h

theorem takeCrc_linkLaw (h : LinkLaw s) (crc : Byte) : LinkLaw (s.takeCrc crc) := by
  unfold State.takeCrc
  split
  · split
    · exact h
    · exact endFrame_linkLaw h _ _ _
  all_goals exact h

theorem framingError_linkLaw (h : LinkLaw s) : LinkLaw s.framingError := by
  unfold State.framingError
  split
  · exact h
  · exact h.of_receiver rfl rfl

theorem gapTimeout_linkLaw (h : LinkLaw s) : LinkLaw s.gapTimeout := by
  unfold State.gapTimeout
  split
  · exact h
  · exact h
  all_goals exact h.of_receiver rfl rfl

theorem linkReset_linkLaw (h : LinkLaw s) : LinkLaw s.linkReset := by
  unfold State.linkReset
  split
  · exact h
  · exact linkLaw_of_cleared rfl

theorem breakEnd_linkLaw (h : LinkLaw s) : LinkLaw s.breakEnd := by
  unfold State.breakEnd
  split
  · exact h.of_growth h.1 h.2.1 rfl (fun _ => rfl) (List.prefix_refl _) (.refl _)
  · exact h

/-! ## The Link Transmitter -/

/-- A frame the arbiter starts is at the front of its source (R178). -/
theorem arbitrate_linkLaw (h : LinkLaw s) : LinkLaw s.arbitrate := by
  obtain ⟨hinbox, hroom, -⟩ := id h
  rcases s.arbitrate_cases with he | ⟨cause, -, hhello, he⟩ | ⟨f, rest, -, hr, he⟩ | ⟨n, rest, -, -, hn, -, he⟩ <;> rw [he]
  · exact h
  · exact ⟨hinbox, hroom, by simp [State.send, hhello]⟩
  · exact ⟨hinbox, hroom, by simp [State.send, hr]⟩
  · exact ⟨hinbox, hroom, by simp [State.startNotice, State.send, hn]⟩

theorem frameSent_linkLaw (h : LinkLaw s) : LinkLaw s.frameSent := by
  unfold State.frameSent
  split
  · exact h
  · rename_i x _
    refine arbitrate_linkLaw ?_
    cases x with
    | hello f => exact linkLaw_of_idle rfl h.1 h.2.1
    | response f =>
      refine linkLaw_of_idle rfl h.1 ?_
      simp only [State.releaseSent, State.lineIdle, List.length_tail]
      have := h.2.1
      omega
    | notice f o =>
      simp only [State.releaseSent, State.noticeSent]
      rw [State.grantSpace_frame]
      exact linkLaw_of_idle rfl h.1 h.2.1

theorem endHardReset_linkLaw (h : LinkLaw s) (bsel1 bsel0 lrxHigh : Bool) : LinkLaw (s.endHardReset bsel1 bsel0 lrxHigh) := by
  unfold State.endHardReset
  split
  · exact linkLaw_of_cleared rfl
  · exact h

/-! ## The served bus and the timers -/

theorem startCondition_linkLaw (h : LinkLaw s) : LinkLaw s.startCondition := by
  rcases s.startCondition_cases with ⟨-, he⟩ | ⟨-, -, he⟩ | ⟨-, he⟩ <;> rw [he]
  · exact h
  · exact h.of_grows rfl (.refl _)
  · exact h.of_grows (s.endTransaction_link _) (s.endTransaction_grows _)

theorem stopCondition_linkLaw (h : LinkLaw s) : LinkLaw s.stopCondition := by
  rcases s.stopCondition_cases with ⟨-, he⟩ | ⟨-, -, -, he⟩ | ⟨-, -, he⟩ | ⟨-, he⟩ <;> rw [he]
  · exact h
  · exact h.of_grows rfl (.refl _)
  · exact h.of_grows rfl (.refl _)
  · exact h.of_grows (s.endTransaction_link _) (s.endTransaction_grows _)

theorem addressByte_grows (s : State) (v : Byte) : Grows s.notices (s.addressByte v).notices := by
  unfold State.addressByte
  split
  · split
    · exact .refl _
    · rcases s.answerAddress_cases (busAddress v) (busDirection v) with he | ⟨i, r, -, hcases⟩
      · rw [he]
        exact .refl _
      rcases hcases with ⟨-, he⟩ | ⟨-, n, -, ⟨-, he⟩ | ⟨-, he⟩⟩ | ⟨-, ⟨-, he⟩ | ⟨-, he⟩⟩ <;> rw [he]
      · exact .refl _
      · exact .raise _ _
      · exact .raise _ _
      · exact .refl _
      · exact .refl _
  · exact .refl _

theorem addressByte_linkLaw (h : LinkLaw s) (v : Byte) : LinkLaw (s.addressByte v) :=
  h.of_grows (by rw [State.addressByte_frame]) (addressByte_grows s v)

theorem holdExpiry_linkLaw (h : LinkLaw s) : LinkLaw s.holdExpiry := by
  rcases s.holdExpiry_cases with he | ⟨c, reason, n, -, -, -, -, he⟩ <;> rw [he]
  · exact h
  · exact h.of_grows (s.endTransaction_link .expiry) ((s.endTransaction_grows .expiry).trans (.raise _ n))

theorem abandonment_linkLaw (h : LinkLaw s) : LinkLaw s.abandonment := by
  rcases s.abandonment_cases with he | ⟨c, n, -, -, -, he⟩ <;> rw [he]
  · exact h
  · exact h.of_grows (s.endTransaction_link .abandonment) ((s.endTransaction_grows .abandonment).trans (.raise _ n))

theorem freshnessTick_linkLaw (h : LinkLaw s) (n : Nat) : LinkLaw (s.freshnessTick n) := by
  rcases s.freshnessTick_cases n with he | ⟨i, r, -, -, he | ⟨-, he⟩⟩ <;> rw [he]
  · exact h
  · exact h.of_grows rfl (.raise _ _)
  · exact h.of_grows rfl (.refl _)

theorem freshnessExpiry_linkLaw (h : LinkLaw s) (n : Nat) : LinkLaw (s.freshnessExpiry n) := by
  rcases s.freshnessExpiry_cases n with he | ⟨i, r, -, -, he⟩ <;> rw [he]
  · exact h
  · exact h.of_grows rfl (.raise _ _)

end

/-! ## Every command and event -/

theorem effectOf_linkLaw (i : Instr) (s : State) (h : LinkLaw s) : LinkLaw (effectOf i s) := by
  cases i with
  | identify => exact runCommand_linkLaw .identify h
  | status => exact runCommand_linkLaw .status h
  | reset => exact takeReset_linkLaw h
  | credit => exact runCommand_linkLaw .credit h
  | attach => exact runCommand_linkLaw .attach h
  | detach => exact runCommand_linkLaw .detach h
  | holdLimit => exact runCommand_linkLaw .holdLimit h
  | stallLimit => exact runCommand_linkLaw .stallLimit h
  | install => exact runCommand_linkLaw .install h
  | activate => exact runCommand_linkLaw .activate h
  | quiesce => exact runCommand_linkLaw .quiesce h
  | resume => exact runCommand_linkLaw .resume h
  | retire => exact runCommand_linkLaw .retire h
  | query => exact runCommand_linkLaw .query h
  | lookup => exact runCommand_linkLaw .lookup h
  | touch => exact runCommand_linkLaw .touch h
  | load => exact runCommand_linkLaw .load h
  | read => exact runCommand_linkLaw .read h
  | fill => exact runCommand_linkLaw .fill h
  | post => exact runCommand_linkLaw .post h
  | flush => exact runCommand_linkLaw .flush h
  | unknownCommand => exact takeUnknown_linkLaw h
  | duplicate => exact takeDuplicate_linkLaw h
  | frameReceived crc => exact takeCrc_linkLaw h crc
  | framingError => exact framingError_linkLaw h
  | gapTimeout => exact gapTimeout_linkLaw h
  | linkReset => exact linkReset_linkLaw h
  | breakEnd => exact breakEnd_linkLaw h
  | frameStart => exact arbitrate_linkLaw h
  | frameSent => exact frameSent_linkLaw h
  | hardwareReset => exact linkLaw_of_cleared rfl
  | hardwareResetEnd bsel1 bsel0 lrxHigh => exact endHardReset_linkLaw h bsel1 bsel0 lrxHigh
  | startCondition => exact startCondition_linkLaw h
  | stopCondition => exact stopCondition_linkLaw h
  | addressByte value => exact addressByte_linkLaw h value
  | pointerByte value =>
    change LinkLaw (s.pointerByte value)
    rw [State.pointerByte_frame]
    exact h
  | bankWriteByte value =>
    change LinkLaw (s.bankWriteByte value)
    rw [State.bankWriteByte_frame]
    exact h
  | mailboxWriteByte value =>
    change LinkLaw (s.mailboxWriteByte value)
    rw [State.mailboxWriteByte_frame]
    exact h
  | readByteDrive =>
    change LinkLaw s.readByteDrive
    rw [State.readByteDrive_frame]
    exact h
  | readByteAcknowledge ack =>
    change LinkLaw (s.readByteAcknowledge ack)
    rw [State.readByteAcknowledge_frame]
    exact h
  | holdExpiry => exact holdExpiry_linkLaw h
  | abandonment => exact abandonment_linkLaw h
  | freshnessTick slot => exact freshnessTick_linkLaw h slot
  | freshnessExpiry slot => exact freshnessExpiry_linkLaw h slot
  | characterReceived value => exact takeCharacter_linkLaw h value
  | sclEdge edge =>
    change LinkLaw (s.sclEdge edge)
    rw [State.sclEdge_frame]
    exact h

/-- Settles O58: nothing but the release of a sent frame and a reset takes from the front of a source. -/
theorem everyStepKeepsTheLinkLaw : Obligations.EveryStepKeepsTheLinkLaw :=
  fun _ _ h ht => step_keeps (P := LinkLaw) (fun _ _ h => h) effectOf_linkLaw h ht

end Sys2Proof.Machine

/-! While a bank is pinned its bytes change only by APPLY and by the FILL of its hold (O60; R50): every other write of the
store goes to blocks that another bank owns or that are free. -/

namespace Sys2Proof.Machine

/-- A window cell lies in one of the blocks listed (R48). -/
theorem windowCell_eq_some {blocks : List BlockNo} {p a : Nat} (h : windowCell blocks p = some a) :
    ∃ k ∈ blocks, k.val = a / 16 := by
  unfold windowCell Config.blockBytes at h
  obtain ⟨k, hk, rfl⟩ := Option.map_eq_some_iff.1 h
  exact ⟨k, List.mem_of_getElem? hk, by omega⟩

/-- A write through one block list leaves the window of every list that shares no block with it (R45, R48). -/
theorem windowByte_windowWrite_disjoint {m : Memory} (hm : m.wf = true) {blocks others : List BlockNo}
    (h : ∀ k ∈ blocks, k ∉ others) (offset : Nat) (data : List Byte) (p : Nat) :
    windowByte (windowWrite m others offset data) blocks p = windowByte m blocks p := by
  unfold windowByte
  split
  · rename_i a ha
    refine memRead_windowWrite_other hm others offset data a fun k _ hk => ?_
    obtain ⟨x, hx, hxa⟩ := windowCell_eq_some ha
    obtain ⟨y, hy, hya⟩ := windowCell_eq_some hk
    obtain rfl : x = y := Fin.ext (hxa.trans hya.symm)
    exact h x hx hy
  · rfl

/-- The bank `b` is the pinned endpoint, over the store `m`. -/
structure State.PinsBank (s : State) (k : Context) (b : Bank) (m : Memory) : Prop where
  blockLaw : BlockLaw s
  wf : s.store.wf = true
  ctx : s.engine.ctx = some k
  record : ∃ r, s.record k.slot = some r ∧ r.content = .bank b
  store : s.store = m

/-- The window of `b` reads as it did in the store `m`, or the transaction is over. -/
def State.LeavesWindow (b : Bank) (m : Memory) (t : State) : Prop :=
  t.engine.ctx = none ∨ ∀ p, windowByte t.store b.blocks p = windowByte m b.blocks p

theorem ofBody_pinsBank (k : Context) (b : Bank) (m : Memory) : OfBody fun s => s.PinsBank k b m :=
  fun _ _ ⟨_, _, _, _, _, _, _⟩ ⟨hb, hw, hc, hr, hm⟩ => ⟨hb, hw, hc, hr, hm⟩

theorem ofBody_leavesWindow (b : Bank) (m : Memory) : OfBody (State.LeavesWindow b m) :=
  fun _ _ ⟨_, _, _, _, _, _, _⟩ h => h

section

variable {i : Instr} {s t : State} {k : Context} {b : Bank} {m : Memory}

theorem State.PinsBank.leaves_of_store (h : s.PinsBank k b m) (ht : t.store = s.store) : t.LeavesWindow b m :=
  Or.inr fun p => by rw [ht, h.store]

theorem State.PinsBank.leaves_of_write (h : s.PinsBank k b m) {others : List BlockNo} {offset : Nat} {data : List Byte}
    (hdisjoint : ∀ x ∈ b.blocks, x ∉ others) (ht : t.store = windowWrite s.store others offset data) :
    t.LeavesWindow b m :=
  Or.inr fun p => by rw [ht, windowByte_windowWrite_disjoint h.wf hdisjoint, h.store]

theorem State.PinsBank.blocksOf (h : s.PinsBank k b m) : s.blocksOf k.slot = b.blocks := by
  obtain ⟨r, hr, hb⟩ := h.record
  rw [State.blocksOf_eq, hr, recordBlocks_of_bank hb]

/-- A bank in another slot shares no block with the pinned one (R45). -/
theorem State.PinsBank.disjoint_of_ne (h : s.PinsBank k b m) {j : Slot} {r : Record} {d : Bank} (hne : k.slot ≠ j)
    (hr : s.record j = some r) (hd : r.content = .bank d) : ∀ x ∈ b.blocks, x ∉ d.blocks := by
  obtain ⟨-, -, -, hone, -⟩ := h.blockLaw
  intro x hx hy
  refine hne (hone k.slot j x (by rwa [h.blocksOf]) ?_)
  rwa [State.blocksOf_eq, hr, recordBlocks_of_bank hd]

/-- The blocks a new bank is given are free, so none is the pinned bank's (R45, R46). -/
theorem State.PinsBank.disjoint_installBlocks (h : s.PinsBank k b m) (q : InstallFields) :
    ∀ x ∈ b.blocks, x ∉ installBlocks s q := by
  obtain ⟨-, -, hfree, -, -⟩ := h.blockLaw
  exact fun x hx hy => hfree k.slot x (by rwa [h.blocksOf]) (List.mem_of_mem_take hy)

/-- The pinned bank is the bank of the context's slot. -/
theorem State.PinsBank.unique (h : s.PinsBank k b m) {c : Context} {r : Record} {d : Bank}
    (hc : s.engine.ctx = some c) (hr : s.record c.slot = some r) (hd : r.content = .bank d) : d = b := by
  obtain ⟨r', hr', hb⟩ := h.record
  obtain rfl : c = k := Option.some.inj (hc.symm.trans h.ctx)
  obtain rfl : r = r' := Option.some.inj (hr.symm.trans hr')
  exact Content.bank.inj (hd.symm.trans hb)

theorem Change.leavesWindow (h : Change i s t) (hs : s.PinsBank k b m) (hfill : i ≠ .fill)
    (happly : ∀ v, i = .bankWriteByte v → b.policy ≠ .apply) : t.LeavesWindow b m := by
  cases h
  case idle | meter | grant | engine | pin | context | point | record | keepLoad | post | flushAll | flushAround =>
    exact hs.leaves_of_store rfl
  case clear => exact Or.inl rfl
  case apply v c d e r b' h hi hr hb' hpolicy hp =>
    obtain rfl := hs.unique h.ctx hr hb'
    exact absurd hpolicy (happly v hi)
  case load j r b' offset data hr _ hb' hp =>
    refine hs.leaves_of_write (hs.disjoint_of_ne (fun hj => ?_) hr hb') rfl
    rw [State.pinned_iff.2 ⟨k, hs.ctx, hj⟩] at hp
    cases hp
  case fetch hi _ _ _ => exact absurd hi hfill
  case install j q _ =>
    by_cases hq : q.kindCode = 0
    · exact hs.leaves_of_write (hs.disjoint_installBlocks q) ((State.installAt_store s j q).trans (if_pos hq))
    · exact hs.leaves_of_store ((State.installAt_store s j q).trans (if_neg hq))
  case free j _ => exact hs.leaves_of_store (State.freeRecord_store s j)
  case finish cause c q hc _ _ => exact Or.inl (State.endTransaction_ctx hc cause)
  case finishRetire c r hc _ _ _ =>
    refine Or.inl ?_
    rw [State.freeRecord_engine]
    exact State.endTransaction_ctx hc .retire

/-- Every event but a FILL and a byte written under APPLY. -/
theorem effectOf_leavesWindow (hs : s.PinsBank k b m) (hfill : i ≠ .fill)
    (happly : ∀ v, i = .bankWriteByte v → b.policy ≠ .apply) : (effectOf i s).LeavesWindow b m := by
  obtain ⟨s', t', hs', hc, ht'⟩ := effectOf_changes i s
  exact ofBody_leavesWindow b m t' _ ht' (hc.leavesWindow (ofBody_pinsBank k b m s s' hs' hs) hfill happly)

/-- A FILL that names another slot than the hold's, or finds no FETCH hold. -/
theorem fillEffect_leavesWindow (hs : s.PinsBank k b m) {p : List Byte}
    (h : s.engine.phase = .hold → k.holdReason = some .fetch → (byteAt p 0).toNat ≠ k.slot.val) :
    (fillEffect p s).1.LeavesWindow b m := by
  rcases fillEffect_cases p s with he | ⟨i, r, d, offset, data, hr, -, hd, -, -,
    ⟨-, -, he⟩ | ⟨hp, he⟩ | ⟨c, hc, hi, hphase, hreason, hslot, -⟩⟩
  · rw [he]
    exact hs.leaves_of_store rfl
  · rw [he, State.refresh_eq]
    exact hs.leaves_of_store rfl
  · rw [he, State.refresh_eq]
    refine hs.leaves_of_write (hs.disjoint_of_ne (fun hj => ?_) hr hd) rfl
    rw [State.pinned_iff.2 ⟨k, hs.ctx, hj⟩] at hp
    cases hp
  · obtain rfl : c = k := Option.some.inj (hc.symm.trans hs.ctx)
    exact absurd (hi ▸ slotOf_eq_some.1 hslot) (h hphase hreason)

theorem runFill_leavesWindow (hs : s.PinsBank k b m)
    (h : ∀ f, s.engine.phase = .hold → k.holdReason = some .fetch → s.link.inbox.head? = some f →
      (byteAt f.payload 0).toNat ≠ k.slot.val) : (s.runCommand .fill fillEffect).LeavesWindow b m := by
  rcases s.runCommand_cases .fill fillEffect with ⟨he, -⟩ | ⟨f, -, -, -, -, he⟩ | ⟨f, ht, -, -, -, he⟩ <;> rw [he]
  · exact hs.leaves_of_store rfl
  · exact hs.leaves_of_store rfl
  · obtain ⟨-, hhead⟩ := takeable_eq_some.1 ht
    exact ofBody_leavesWindow b m _ _ (.intro _ _ _ _ _ _ _) (fillEffect_leavesWindow (s := s.dropHead)
      (ofBody_pinsBank k b m s s.dropHead (.intro _ _ _ _ _ _ _) hs) fun hp hr => h f hp hr hhead)

end

/-- Settles O60: of the writes that are not excepted, each goes to blocks the pinned bank does not own, and the end of
the transaction ends the pin. -/
theorem aPinnedBanksBytesAreLeftAlone : Obligations.APinnedBanksBytesAreLeftAlone := by
  intro s t i k d r b hblocks hwf hexec hk hr hb hd happly hfill p _
  have hs : s.PinsBank k b s.store := ⟨hblocks, hwf, hk, ⟨r, hr, hb⟩, rfl⟩
  have hleaves : t.LeavesWindow b s.store := by
    rcases exec_cases hexec with rfl | rfl
    · exact hs.leaves_of_store rfl
    · by_cases hi : i = .fill
      · subst hi
        exact runFill_leavesWindow hs fun f => hfill f rfl
      · exact effectOf_leavesWindow hs hi happly
  rcases hleaves with hnone | hsame
  · rw [hnone] at hd
    cases hd
  · exact hsame p

end Sys2Proof.Machine

/-! The Command Engine: a frame is answered or left, a duplicate is answered from the cache, and a refusal changes
nothing but the link (O1 to O7; R11, R175, R176, R188). -/

namespace Sys2Proof.Machine

/-- Settles O1, by the definition of a step. -/
theorem stepRunsTheFrontOfTheQueue : Obligations.StepRunsTheFrontOfTheQueue := by
  refine ⟨fun s c rest h => ?_, fun s h => ?_⟩ <;> simp only [step, h]

/-! ## The queue of waiting commands -/

section

variable {s : State}

theorem runCommand_pending (c : Command) : (s.runCommand c (commandEffect c)).pending = s.pending := by
  rcases s.runCommand_cases c (commandEffect c) with ⟨he, -⟩ | ⟨f, -, -, -, -, he⟩ | ⟨f, -, -, -, -, he⟩ <;> rw [he]
  exact (sameLink_commandEffect c f.payload s.dropHead).pending

theorem takeReset_pending : s.takeReset.pending = s.pending := by
  unfold State.takeReset
  split
  · rfl
  · split
    · split <;> rfl
    · rfl

theorem takeUnknown_pending : s.takeUnknown.pending = s.pending := by
  unfold State.takeUnknown
  split
  · rfl
  · split <;> rfl

theorem takeDuplicate_pending : s.takeDuplicate.pending = s.pending := by
  unfold State.takeDuplicate
  split
  · split <;> rfl
  · rfl

theorem endHardReset_pending (bsel1 bsel0 lrxHigh : Bool) :
    (s.endHardReset bsel1 bsel0 lrxHigh).pending = s.pending := by
  unfold State.endHardReset
  split <;> rfl

theorem startCondition_pending : s.startCondition.pending = s.pending := by
  rcases s.startCondition_cases with ⟨-, he⟩ | ⟨-, -, he⟩ | ⟨-, he⟩ <;> rw [he]
  · rfl
  · exact s.endTransaction_pending _

theorem stopCondition_pending : s.stopCondition.pending = s.pending := by
  rcases s.stopCondition_cases with ⟨-, he⟩ | ⟨-, -, -, he⟩ | ⟨-, -, he⟩ | ⟨-, he⟩ <;> rw [he]
  · rfl
  · exact s.endTransaction_pending _

theorem holdExpiry_pending : s.holdExpiry.pending = s.pending := by
  rcases s.holdExpiry_cases with he | ⟨c, reason, n, -, -, -, -, he⟩ <;> rw [he]
  exact s.endTransaction_pending _

theorem abandonment_pending : s.abandonment.pending = s.pending := by
  rcases s.abandonment_cases with he | ⟨c, n, -, -, -, he⟩ <;> rw [he]
  exact s.endTransaction_pending _

theorem freshnessTick_pending (n : Nat) : (s.freshnessTick n).pending = s.pending := by
  rcases s.freshnessTick_cases n with he | ⟨i, r, -, -, he | ⟨-, he⟩⟩ <;> rw [he] <;> rfl

theorem freshnessExpiry_pending (n : Nat) : (s.freshnessExpiry n).pending = s.pending := by
  rcases s.freshnessExpiry_cases n with he | ⟨i, r, -, -, he⟩ <;> rw [he]
  rfl

end

theorem effectOf_pending (i : Instr) (s : State) : (effectOf i s).pending = s.pending := by
  cases i with
  | identify => exact runCommand_pending .identify
  | status => exact runCommand_pending .status
  | reset => exact takeReset_pending
  | credit => exact runCommand_pending .credit
  | attach => exact runCommand_pending .attach
  | detach => exact runCommand_pending .detach
  | holdLimit => exact runCommand_pending .holdLimit
  | stallLimit => exact runCommand_pending .stallLimit
  | install => exact runCommand_pending .install
  | activate => exact runCommand_pending .activate
  | quiesce => exact runCommand_pending .quiesce
  | resume => exact runCommand_pending .resume
  | retire => exact runCommand_pending .retire
  | query => exact runCommand_pending .query
  | lookup => exact runCommand_pending .lookup
  | touch => exact runCommand_pending .touch
  | load => exact runCommand_pending .load
  | read => exact runCommand_pending .read
  | fill => exact runCommand_pending .fill
  | post => exact runCommand_pending .post
  | flush => exact runCommand_pending .flush
  | unknownCommand => exact takeUnknown_pending
  | duplicate => exact takeDuplicate_pending
  | frameReceived crc => exact (congrArg State.pending (s.takeCrc_frame crc)).trans rfl
  | framingError => exact (congrArg State.pending s.framingError_frame).trans rfl
  | gapTimeout => exact (congrArg State.pending s.gapTimeout_frame).trans rfl
  | linkReset => exact (congrArg State.pending s.linkReset_frame).trans rfl
  | breakEnd => exact (congrArg State.pending s.breakEnd_frame).trans rfl
  | frameStart => exact (congrArg State.pending s.arbitrate_frame).trans rfl
  | frameSent => exact (congrArg State.pending s.frameSent_frame).trans rfl
  | hardwareReset => rfl
  | hardwareResetEnd bsel1 bsel0 lrxHigh => exact endHardReset_pending bsel1 bsel0 lrxHigh
  | startCondition => exact startCondition_pending
  | stopCondition => exact stopCondition_pending
  | addressByte value => exact (congrArg State.pending (s.addressByte_frame value)).trans rfl
  | pointerByte value => exact (congrArg State.pending (s.pointerByte_frame value)).trans rfl
  | bankWriteByte value => exact (congrArg State.pending (s.bankWriteByte_frame value)).trans rfl
  | mailboxWriteByte value => exact (congrArg State.pending (s.mailboxWriteByte_frame value)).trans rfl
  | readByteDrive => exact (congrArg State.pending s.readByteDrive_frame).trans rfl
  | readByteAcknowledge ack => exact (congrArg State.pending (s.readByteAcknowledge_frame ack)).trans rfl
  | holdExpiry => exact holdExpiry_pending
  | abandonment => exact abandonment_pending
  | freshnessTick slot => exact freshnessTick_pending slot
  | freshnessExpiry slot => exact freshnessExpiry_pending slot
  | characterReceived value => exact (congrArg State.pending (s.takeCharacter_frame value)).trans rfl
  | sclEdge edge => exact (congrArg State.pending (s.sclEdge_frame edge)).trans rfl

/-- Settles O2: every event is a function of the state, and none reaches the queue. -/
theorem everyEventCompletesAndKeepsTheQueue : Obligations.EveryEventCompletesAndKeepsTheQueue := by
  intro i s
  refine ⟨_, exec_eq i s, ?_⟩
  split
  · rfl
  · exact effectOf_pending i s

/-! ## The generic checks and the duplicate -/

section

variable {s t : State} {f : Frame} {c : Command}

theorem Takeable.takeable (h : Takeable s f) : Sys2Proof.Machine.takeable s.link = some f := takeable_eq_some.2 h.2

/-- A RESET with a payload is refused like any other command of a wrong length (R182, R188). -/
theorem takeReset_of_badLength (ht : Takeable s f) (hf : Fresh s f) (hcode : f.code = commandCode .reset)
    (hl : lengthAllowed .reset f.payload.length = false) :
    s.takeReset = { s with link := answered s.link f [0x11] } := by
  simp only [State.takeReset, ht.takeable, hcode, isDuplicate_eq_false.2 hf, hl]
  rfl

/-- A RESET without a payload is a soft reset (R182). -/
theorem takeReset_of_takes (h : Takes s .reset f) : s.takeReset = s.softReset := by
  obtain ⟨ht, hf, hcode, hl⟩ := h
  simp only [State.takeReset, ht.takeable, hcode, isDuplicate_eq_false.2 hf, hl]
  rfl

theorem takeUnknown_of_noCommand (ht : Takeable s f) (hf : Fresh s f) (hcode : isCommandCode f.code = false) :
    s.takeUnknown = { s with link := answered s.link f [0x10] } := by
  simp only [State.takeUnknown, ht.takeable, hcode, isDuplicate_eq_false.2 hf]
  rfl

/-- Settles O3: the CODE is checked by UNKNOWN_COMMAND's own step, the length by every command's. -/
theorem genericChecksRefuseTheFrame : Obligations.GenericChecksRefuseTheFrame := by
  refine ⟨fun s f ht hf hcode => ?_, fun s c f ht hf hcode hl => ?_⟩
  · exact (exec_running ht.1 .unknownCommand).trans (congrArg _ (takeUnknown_of_noCommand ht hf hcode))
  · by_cases hc : c = .reset
    · subst hc
      exact (exec_running ht.1 .reset).trans (congrArg _ (takeReset_of_badLength ht hf hcode hl))
    · exact exec_of_badLength hc ht hf hcode hl

/-- Settles O6: the engine queues the cached response and counts. -/
theorem aDuplicateIsAnsweredFromTheCache : Obligations.ADuplicateIsAnsweredFromTheCache := by
  intro s f e ht hcache hseq
  have htake : s.takeDuplicate = s.answerDuplicate e := by
    simp only [State.takeDuplicate, ht.takeable, hcache, if_pos hseq]
  refine (exec_running ht.1 .duplicate).trans (congrArg _ (htake.trans ?_))
  rw [State.answerDuplicate, countUp_eq]
  rfl

end

/-! ## BAD_SLOT and BAD_STATE (R11) -/

section

variable {s : State} {f : Frame} {c : Command} {p : List Byte} {i : Slot}

/-- A refusal by the command's effect changes nothing but the link. -/
theorem exec_of_refusal {status : Status} (hc : c ≠ .reset) (h : Takes s c f)
    (he : commandEffect c f.payload s.dropHead = s.dropHead.reply status) :
    exec (commandInstr c) s = .next { s with link := answered s.link f [statusByte status] } :=
  exec_of_commandEffect (t := s.dropHead) hc h he

theorem ne_reset_of_namesSlot (h : namesSlot c = true) : c ≠ .reset := by
  rintro rfl
  cases h

/-- The slot is the first check of every command that names one but INSTALL (R11). -/
theorem commandEffect_of_badSlot (h : namesSlot c = true) (hslot : 48 ≤ (byteAt p 0).toNat) :
    commandEffect c p s = s.reply .badSlot := by
  cases c <;> first | exact withSlot_of_badSlot hslot _ | cases h

/-- FREE and RETIRING are the states that most commands refuse (R11). -/
theorem withUsable_of_refused {effect : Record → Reply}
    (h : ∀ r, s.record i = some r → r.state = .retiring) : withUsable s i effect = s.reply .badState := by
  cases hr : s.record i with
  | none => exact withUsable_of_free hr effect
  | some r => exact withUsable_of_retiring hr (h r hr) effect

/-- A command for one state alone refuses FREE and every other state (R18 to R20). -/
theorem withRecord_of_refused {state : EndpointState} {effect : Record → Reply}
    (h : ∀ r, s.record i = some r → r.state ≠ state) :
    (withRecord s i fun r => if r.state = state then effect r else s.reply .badState) = s.reply .badState := by
  cases hr : s.record i with
  | none => exact withRecord_of_free hr _
  | some r => rw [withRecord_of_record hr, if_neg (h r hr)]

theorem stateAllows_staged_live_quiesced {r : Record} {c : Command}
    (hc : ∀ o, stateAllows c o = (o == some .staged || o == some .live || o == some .quiesced))
    (hs : stateAllows c ((s.record i).map Record.state) = false) (hr : s.record i = some r) : r.state = .retiring := by
  rw [hc, hr, Option.map_some] at hs
  cases hstate : r.state <;> simp_all

/-- POST's count check, as it stands in the effect (R101). -/
theorem postCount_fits (h1 : 1 ≤ (byteAt p 1).toNat) (h32 : (byteAt p 1).toNat ≤ 32)
    (hlen : (byteAt p 1).toNat + 2 = p.length) :
    ¬(byteAt p 1 = 0 ∨ Config.messageBytes < (byteAt p 1).toNat ∨ (byteAt p 1).toNat ≠ (p.drop 2).length) := by
  rw [List.length_drop, Config.messageBytes]
  rintro (h | h | h)
  · rw [h] at h1
    exact absurd h1 (by decide)
  · omega
  · omega

/-- READ's count check, as it stands in the effect (R55). -/
theorem readCount_fits (h1 : 1 ≤ (byteAt p 2).toNat) (h48 : (byteAt p 2).toNat ≤ 48) :
    ¬(byteAt p 2 = 0 ∨ Config.transferBytes < (byteAt p 2).toNat) := by
  rw [Config.transferBytes]
  rintro (h | h)
  · rw [h] at h1
    exact absurd h1 (by decide)
  · omega

theorem commandEffect_of_badState (hc : namesSlot c = true) (hi : Names f i) (hcount : countFits c f)
    (hs : stateAllows c ((s.record i).map Record.state) = false) : commandEffect c f.payload s = s.reply .badState := by
  have only {state : EndpointState} (hallow : ∀ o, stateAllows c o = (o == some state)) (r : Record)
      (hr : s.record i = some r) : r.state ≠ state := by
    rintro rfl
    simp [hallow, hr] at hs
  have usable (hallow : ∀ o, stateAllows c o = (o == some .staged || o == some .live || o == some .quiesced))
      (r : Record) (hr : s.record i = some r) : r.state = .retiring := stateAllows_staged_live_quiesced hallow hs hr
  have free (hallow : ∀ o, stateAllows c o = o.isSome) : s.record i = none := by
    rw [hallow, Option.isSome_map] at hs
    exact Option.not_isSome_iff_eq_none.1 (by rw [hs]; exact Bool.false_ne_true)
  cases c <;> simp only [commandEffect]
  case identify | status | reset | credit | attach | detach | holdLimit | stallLimit | install | lookup => cases hc
  case activate => exact (withSlot_of_slot hi _).trans (withRecord_of_refused (only fun _ => rfl))
  case quiesce => exact (withSlot_of_slot hi _).trans (withRecord_of_refused (only fun _ => rfl))
  case resume => exact (withSlot_of_slot hi _).trans (withRecord_of_refused (only fun _ => rfl))
  case retire => exact (withSlot_of_slot hi _).trans (withUsable_of_refused (usable fun _ => rfl))
  case query => cases hs
  case touch => exact (withSlot_of_slot hi _).trans (withUsable_of_refused (usable fun _ => rfl))
  case load => exact (withSlot_of_slot hi _).trans (withUsable_of_refused (usable fun _ => rfl))
  case fill => exact (withSlot_of_slot hi _).trans (withUsable_of_refused (usable fun _ => rfl))
  case read =>
    obtain ⟨h1, h48⟩ := hcount.1 rfl
    rw [readEffect, withSlot_of_slot hi, if_neg (readCount_fits h1 h48), withRecord_of_free (free fun _ => rfl)]
  case post =>
    obtain ⟨h1, h32, hlen⟩ := hcount.2 rfl
    rw [postEffect, withSlot_of_slot hi, if_neg (postCount_fits h1 h32 hlen),
      withUsable_of_refused (usable fun _ => rfl)]
  case flush => exact (withSlot_of_slot hi _).trans (withRecord_of_free (free fun _ => rfl) _)

/-- Settles O4: the slot is the first check of each of the eleven commands, and the state is the next but for the
counts of READ and POST. -/
theorem badSlotAndBadStateAreRefused : Obligations.BadSlotAndBadStateAreRefused := by
  refine ⟨fun s c f hc htakes hslot => ?_, fun s c f i hc htakes hi hcount hs => ?_⟩
  · exact exec_of_refusal (ne_reset_of_namesSlot hc) htakes (commandEffect_of_badSlot hc hslot)
  · exact exec_of_refusal (ne_reset_of_namesSlot hc) htakes (commandEffect_of_badState (s := s.dropHead) hc hi hcount hs)

end

end Sys2Proof.Machine

/-! A refused command leaves everything but the link (O5; R11), and the cache keeps the SEQ of the last frame executed
(O7; R176). -/

namespace Sys2Proof.Machine

/-! ## Refusals -/

/-- An effect that answers a refusal has left the state as it was. -/
def Honest (s : State) (x : Reply) : Prop := 0x10 ≤ (x.2.headD 0).toNat → x.1 = s

section

variable {s t : State} {p : List Byte} {i : Slot} {r : Record}

theorem honest_same (s : State) (reply : List Byte) : Honest s (s, reply) := fun _ => rfl

theorem honest_ok (s t : State) (fields : List Byte) : Honest s (t.replyOk fields) :=
  fun h => absurd h (by decide : ¬0x10 ≤ (statusByte .ok).toNat)

theorem honest_accepted {status : Status} (h : (statusByte status).toNat < 0x10) (s t : State) :
    Honest s (t.reply status) := fun hr => absurd hr (Nat.not_le.2 h)

theorem honest_withSlot {effect : Slot → Reply} (h : ∀ i, Honest s (effect i)) : Honest s (withSlot p s effect) := by
  unfold withSlot
  split
  · exact honest_same s _
  · exact h _

theorem honest_withUsable {effect : Record → Reply} (h : ∀ r, Honest s (effect r)) :
    Honest s (withUsable s i effect) := by
  unfold withUsable
  split
  · exact honest_same s _
  · split
    · exact honest_same s _
    · exact h _

theorem honest_withRecord {effect : Record → Reply} (h : ∀ r, Honest s (effect r)) :
    Honest s (withRecord s i effect) := by
  unfold withRecord
  split
  · exact honest_same s _
  · exact h _

theorem honest_withBank {effect : Bank → Reply} (h : ∀ b, Honest s (effect b)) : Honest s (withBank s r effect) := by
  unfold withBank
  split
  · exact h _
  · exact honest_same s _

theorem honest_withMailbox {effect : Mailbox → Reply} (h : ∀ m, Honest s (effect m)) :
    Honest s (withMailbox s r effect) := by
  unfold withMailbox
  split
  · exact honest_same s _
  · exact h _

theorem honest_loadBank {now later : Status} (hnow : (statusByte now).toNat < 0x10)
    (hlater : (statusByte later).toNat < 0x10) (b : Bank) (offset : Nat) (data : List Byte) :
    Honest s (s.loadBank i b offset data now later) := by
  unfold State.loadBank
  split
  · split
    · exact honest_accepted hlater s _
    · exact honest_same s _
  · exact honest_accepted hnow s _

end

/-- Every command's effect changes the state only under a status below 0x10 (R11). -/
theorem commandEffect_honest (c : Command) (p : List Byte) (s : State) : Honest s (commandEffect c p s) := by
  cases c <;> simp only [commandEffect]
  case identify | reset => exact honest_same s _
  case status =>
    unfold statusEffect
    split
    · exact honest_same s _
    · split <;> exact honest_ok s _ _
  case credit =>
    unfold creditEffect
    simp only
    split
    · exact honest_same s _
    · exact honest_ok s _ _
  case attach => exact honest_accepted (by decide) s _
  case detach =>
    unfold detachEffect
    split
    · exact honest_same s _
    · exact honest_accepted (by decide) s _
    · exact honest_accepted (by decide) s _
    case h_4 | h_5 | h_6 =>
      split
      · exact honest_same s _
      · exact honest_accepted (by decide) s _
    all_goals exact honest_accepted (by decide) s _
  case holdLimit =>
    unfold holdLimitEffect
    split
    · exact honest_same s _
    · exact honest_ok s _ _
  case stallLimit =>
    unfold stallLimitEffect
    split
    · exact honest_same s _
    · exact honest_ok s _ _
  case install =>
    unfold installEffect
    split
    · exact honest_same s _
    · exact honest_ok s _ _
  case activate =>
    refine honest_withSlot fun i => honest_withRecord fun r => ?_
    split
    · exact honest_accepted (by decide) s _
    · exact honest_same s _
  case quiesce =>
    refine honest_withSlot fun i => honest_withRecord fun r => ?_
    split
    · exact honest_accepted (by decide) s _
    · exact honest_same s _
  case resume =>
    refine honest_withSlot fun i => honest_withRecord fun r => ?_
    split
    · exact honest_accepted (by decide) s _
    · exact honest_same s _
  case retire =>
    refine honest_withSlot fun i => honest_withUsable fun r => ?_
    split
    · split <;> exact honest_accepted (by decide) s _
    · exact honest_accepted (by decide) s _
  case query => exact honest_withSlot fun i => honest_same s _
  case lookup =>
    unfold lookupEffect
    split <;> exact honest_same s _
  case touch => exact honest_withSlot fun i => honest_withUsable fun r => honest_accepted (by decide) s _
  case load =>
    refine honest_withSlot fun i => honest_withUsable fun r => honest_withBank fun b => ?_
    split
    · exact honest_same s _
    · exact honest_loadBank (by decide) (by decide) _ _ _
  case read =>
    refine honest_withSlot fun i => ?_
    split
    · exact honest_same s _
    · refine honest_withRecord fun r => honest_withBank fun b => ?_
      split <;> exact honest_same s _
  case fill =>
    refine honest_withSlot fun i => honest_withUsable fun r => honest_withBank fun b => ?_
    split
    · exact honest_same s _
    · split
      · exact honest_accepted (by decide) s _
      · exact honest_loadBank (by decide) (by decide) _ _ _
  case post =>
    refine honest_withSlot fun i => ?_
    split
    · exact honest_same s _
    · refine honest_withUsable fun r => honest_withMailbox fun m => ?_
      split
      · exact honest_same s _
      · split
        · exact honest_same s _
        · exact honest_accepted (by decide) s _
  case flush =>
    refine honest_withSlot fun i => honest_withRecord fun r => honest_withMailbox fun m => ?_
    split <;> exact honest_ok s _ _

/-- An answered link shows the payload of its answer. -/
theorem answered_injective {l : Link} {f : Frame} {reply reply' : List Byte}
    (h : answered l f reply = answered l f reply') : reply = reply' := by
  have hresponses := congrArg Link.cache h
  simpa [answered] using hresponses

/-- Settles O5: the answer names the reply of the command's effect, and an effect that refuses has changed nothing. -/
theorem aRefusedCommandChangesNothing : Obligations.ARefusedCommandChangesNothing := by
  intro s t c f reply htakes hexec hlink hrefused
  by_cases hc : c = .reset
  · subst hc
    have ht : exec (commandInstr .reset) s = .next s.softReset :=
      (exec_running htakes.1.1 .reset).trans (congrArg _ (takeReset_of_takes htakes))
    obtain rfl : s.softReset = t := Host.Outcome.next.inj (ht.symm.trans hexec)
    exact nomatch congrArg Link.cache hlink
  · obtain rfl := Host.Outcome.next.inj ((exec_takes_eq hc htakes).symm.trans hexec)
    obtain rfl := answered_injective hlink
    rw [commandEffect_honest c f.payload s.dropHead hrefused]
    rfl

/-! ## The cache -/

/-- A frame that was taken and is no duplicate has been answered, and the answer is cached (R176). -/
def Answers (s t : State) : Prop :=
  ∃ f reply, takeable s.link = some f ∧ isDuplicate s.link f = false ∧ t.link = answered s.link f reply

section

variable {s : State}

theorem runCommand_answers (c : Command) :
    s.runCommand c (commandEffect c) = s ∨ Answers s (s.runCommand c (commandEffect c)) := by
  rcases s.runCommand_cases c (commandEffect c) with ⟨he, -⟩ | ⟨f, ht, hd, -, -, he⟩ | ⟨f, ht, hd, -, -, he⟩
  · exact Or.inl he
  · exact Or.inr ⟨f, _, ht, hd, by rw [he]⟩
  · exact Or.inr ⟨f, _, ht, hd, by
      rw [he, State.respond_eq (sameLink_commandEffect c f.payload s.dropHead).link]⟩

theorem takeReset_answers : s.takeReset = s ∨ s.takeReset.link.cache = none ∨ Answers s s.takeReset := by
  unfold State.takeReset
  split
  · exact Or.inl rfl
  · rename_i f ht
    split
    · rename_i h
      rw [Bool.and_eq_true, Bool.not_eq_true'] at h
      split
      · exact Or.inr (Or.inl rfl)
      · exact Or.inr (Or.inr ⟨f, _, ht, h.2, rfl⟩)
    · exact Or.inl rfl

theorem takeUnknown_answers : s.takeUnknown = s ∨ Answers s s.takeUnknown := by
  unfold State.takeUnknown
  split
  · exact Or.inl rfl
  · rename_i f ht
    split
    · rename_i h
      rw [Bool.and_eq_true, Bool.not_eq_true', Bool.not_eq_true'] at h
      exact Or.inr ⟨f, _, ht, h.2, rfl⟩
    · exact Or.inl rfl

/-- An answer is cached with the SEQ of its frame, which is no duplicate's. -/
theorem Answers.cache {t : State} (h : Answers s t) : ∃ f d, takeable s.link = some f ∧ isDuplicate s.link f = false ∧
    t.link.cache = some d ∧ d.seq = f.seq ∧ t.link.responses = s.link.responses ++ [d.response] := by
  obtain ⟨f, reply, ht, hd, hlink⟩ := h
  exact ⟨f, _, ht, hd, by rw [hlink]; rfl, rfl, by rw [hlink]; rfl⟩

/-- An answer replaces a valid cache by one with another SEQ. -/
theorem Answers.seq_ne {t : State} (h : Answers s t) {e : CacheEntry} (he : s.link.cache = some e) :
    ∃ d, t.link.cache = some d ∧ d.seq ≠ e.seq := by
  obtain ⟨f, d, -, hdup, hd, hseq, -⟩ := h.cache
  refine ⟨d, hd, fun h => ?_⟩
  rw [isDuplicate, he, beq_eq_false_iff_ne] at hdup
  exact hdup (h.symm.trans hseq)

theorem takeDuplicate_cache : s.takeDuplicate.link.cache = s.link.cache := by
  unfold State.takeDuplicate
  split
  · split <;> rfl
  · rfl

theorem endFrame_cache (len : Nat) (got : List Byte) (crc : Byte) :
    (s.endFrame len got crc).link.cache = s.link.cache := by
  unfold State.endFrame State.deliver
  split
  · split <;> rfl
  · rfl

theorem takeCrc_cache (crc : Byte) : (s.takeCrc crc).link.cache = s.link.cache := by
  unfold State.takeCrc
  split
  · split
    · rfl
    · exact endFrame_cache _ _ _
  all_goals rfl

theorem huntCharacter_cache (v : Byte) : (s.huntCharacter v).link.cache = s.link.cache := by
  unfold State.huntCharacter
  split <;> rfl

theorem takeCharacter_cache (v : Byte) : (s.takeCharacter v).link.cache = s.link.cache := by
  unfold State.takeCharacter
  split
  · exact huntCharacter_cache v
  · split
    · rfl
    · exact huntCharacter_cache v
  · split
    · rfl
    · exact endFrame_cache _ _ _
  · rfl

theorem framingError_cache : s.framingError.link.cache = s.link.cache := by
  unfold State.framingError
  split <;> rfl

theorem gapTimeout_cache : s.gapTimeout.link.cache = s.link.cache := by
  unfold State.gapTimeout
  split <;> rfl

theorem breakEnd_cache : s.breakEnd.link.cache = s.link.cache := by
  unfold State.breakEnd
  split <;> rfl

theorem arbitrate_cache : s.arbitrate.link.cache = s.link.cache := by
  rcases s.arbitrate_cases with h | ⟨cause, -, -, h⟩ | ⟨f, rest, -, -, h⟩ | ⟨n, rest, -, -, -, -, h⟩ <;> rw [h] <;> rfl

theorem frameSent_cache : s.frameSent.link.cache = s.link.cache := by
  unfold State.frameSent
  split
  · rfl
  · rename_i x _
    rw [arbitrate_cache]
    cases x with
    | hello f => rfl
    | response f => rfl
    | notice f o =>
      simp only [State.releaseSent, State.noticeSent]
      rw [State.grantSpace_frame]
      rfl

theorem startCondition_link : s.startCondition.link = s.link := by
  rcases s.startCondition_cases with ⟨-, he⟩ | ⟨-, -, he⟩ | ⟨-, he⟩ <;> rw [he]
  · rfl
  · exact s.endTransaction_link _

theorem stopCondition_link : s.stopCondition.link = s.link := by
  rcases s.stopCondition_cases with ⟨-, he⟩ | ⟨-, -, -, he⟩ | ⟨-, -, he⟩ | ⟨-, he⟩ <;> rw [he]
  · rfl
  · exact s.endTransaction_link _

theorem holdExpiry_link : s.holdExpiry.link = s.link := by
  rcases s.holdExpiry_cases with he | ⟨c, reason, n, -, -, -, -, he⟩ <;> rw [he]
  exact s.endTransaction_link .expiry

theorem abandonment_link : s.abandonment.link = s.link := by
  rcases s.abandonment_cases with he | ⟨c, n, -, -, -, he⟩ <;> rw [he]
  exact s.endTransaction_link .abandonment

theorem freshnessTick_link (n : Nat) : (s.freshnessTick n).link = s.link := by
  rcases s.freshnessTick_cases n with he | ⟨i, r, -, -, he | ⟨-, he⟩⟩ <;> rw [he] <;> rfl

theorem freshnessExpiry_link (n : Nat) : (s.freshnessExpiry n).link = s.link := by
  rcases s.freshnessExpiry_cases n with he | ⟨i, r, -, -, he⟩ <;> rw [he]
  rfl

end

/-- The events that reset the link (R146, R174, R181, R182). -/
def ResetsLink (i : Instr) : Prop :=
  i = .reset ∨ i = .linkReset ∨ i = .hardwareReset ∨ ∃ bsel1 bsel0 lrxHigh, i = .hardwareResetEnd bsel1 bsel0 lrxHigh

/-- The steps that execute a frame (R175, R188). -/
def ExecutesFrame (i : Instr) : Prop := i = .unknownCommand ∨ ∃ c, i = commandInstr c

/-- Every event keeps the cache, clears it with the link, or answers a frame. -/
theorem effectOf_cache (i : Instr) (s : State) :
    (effectOf i s).link.cache = s.link.cache ∨
    ((effectOf i s).link.cache = none ∧ ResetsLink i) ∨ (ExecutesFrame i ∧ Answers s (effectOf i s)) := by
  have command (c : Command) : (s.runCommand c (commandEffect c)).link.cache = s.link.cache ∨
      ((s.runCommand c (commandEffect c)).link.cache = none ∧ ResetsLink (commandInstr c)) ∨
      (ExecutesFrame (commandInstr c) ∧ Answers s (s.runCommand c (commandEffect c))) := by
    rcases runCommand_answers c with he | ha
    · exact Or.inl (by rw [he])
    · exact Or.inr (Or.inr ⟨Or.inr ⟨c, rfl⟩, ha⟩)
  cases i with
  | identify => exact command .identify
  | status => exact command .status
  | credit => exact command .credit
  | attach => exact command .attach
  | detach => exact command .detach
  | holdLimit => exact command .holdLimit
  | stallLimit => exact command .stallLimit
  | install => exact command .install
  | activate => exact command .activate
  | quiesce => exact command .quiesce
  | resume => exact command .resume
  | retire => exact command .retire
  | query => exact command .query
  | lookup => exact command .lookup
  | touch => exact command .touch
  | load => exact command .load
  | read => exact command .read
  | fill => exact command .fill
  | post => exact command .post
  | flush => exact command .flush
  | reset =>
    rcases takeReset_answers (s := s) with he | hnone | ha
    · exact Or.inl (congrArg (fun t : State => t.link.cache) he)
    · exact Or.inr (Or.inl ⟨hnone, Or.inl rfl⟩)
    · exact Or.inr (Or.inr ⟨Or.inr ⟨.reset, rfl⟩, ha⟩)
  | unknownCommand =>
    rcases takeUnknown_answers (s := s) with he | ha
    · exact Or.inl (congrArg (fun t : State => t.link.cache) he)
    · exact Or.inr (Or.inr ⟨Or.inl rfl, ha⟩)
  | linkReset =>
    change s.linkReset.link.cache = _ ∨ (s.linkReset.link.cache = none ∧ _) ∨ _
    unfold State.linkReset
    split
    · exact Or.inl rfl
    · exact Or.inr (Or.inl ⟨rfl, Or.inr (Or.inl rfl)⟩)
  | hardwareReset => exact Or.inr (Or.inl ⟨rfl, Or.inr (Or.inr (Or.inl rfl))⟩)
  | hardwareResetEnd bsel1 bsel0 lrxHigh =>
    change (s.endHardReset bsel1 bsel0 lrxHigh).link.cache = _ ∨
      ((s.endHardReset bsel1 bsel0 lrxHigh).link.cache = none ∧ _) ∨ _
    unfold State.endHardReset
    split
    · exact Or.inr (Or.inl ⟨rfl, Or.inr (Or.inr (Or.inr ⟨_, _, _, rfl⟩))⟩)
    · exact Or.inl rfl
  | duplicate => exact Or.inl takeDuplicate_cache
  | frameReceived crc => exact Or.inl (takeCrc_cache crc)
  | framingError => exact Or.inl framingError_cache
  | gapTimeout => exact Or.inl gapTimeout_cache
  | breakEnd => exact Or.inl breakEnd_cache
  | frameStart => exact Or.inl arbitrate_cache
  | frameSent => exact Or.inl frameSent_cache
  | startCondition => exact Or.inl (congrArg Link.cache startCondition_link)
  | stopCondition => exact Or.inl (congrArg Link.cache stopCondition_link)
  | addressByte value => exact Or.inl ((congrArg (·.link.cache) (s.addressByte_frame value)).trans rfl)
  | pointerByte value => exact Or.inl ((congrArg (·.link.cache) (s.pointerByte_frame value)).trans rfl)
  | bankWriteByte value => exact Or.inl ((congrArg (·.link.cache) (s.bankWriteByte_frame value)).trans rfl)
  | mailboxWriteByte value => exact Or.inl ((congrArg (·.link.cache) (s.mailboxWriteByte_frame value)).trans rfl)
  | readByteDrive => exact Or.inl ((congrArg (·.link.cache) s.readByteDrive_frame).trans rfl)
  | readByteAcknowledge ack => exact Or.inl ((congrArg (·.link.cache) (s.readByteAcknowledge_frame ack)).trans rfl)
  | holdExpiry => exact Or.inl (congrArg Link.cache holdExpiry_link)
  | abandonment => exact Or.inl (congrArg Link.cache abandonment_link)
  | freshnessTick slot => exact Or.inl (congrArg Link.cache (freshnessTick_link slot))
  | freshnessExpiry slot => exact Or.inl (congrArg Link.cache (freshnessExpiry_link slot))
  | characterReceived value => exact Or.inl (takeCharacter_cache value)
  | sclEdge edge => exact Or.inl ((congrArg (·.link.cache) (s.sclEdge_frame edge)).trans rfl)

/-- In the hardware reset no frame is executed. -/
theorem not_reset_of_exec {i : Instr} {s t : State} (h : exec i s = .next t) (hi : ExecutesFrame i) (ht : t ≠ s) :
    s.hardReset = false := by
  have hreset : isResetEvent i = false := by
    rcases hi with rfl | ⟨c, rfl⟩
    · rfl
    · cases c <;> rfl
  cases hs : s.hardReset with
  | false => rfl
  | true =>
    rw [exec_eq, hs, hreset] at h
    exact absurd (Host.Outcome.next.inj h).symm ht

/-- Settles O7: a step that executes a frame answers it, and the answer is cached with the frame's SEQ, which is no
duplicate's. -/
theorem consecutiveCommandsDifferInSeq : Obligations.ConsecutiveCommandsDifferInSeq := by
  refine ⟨fun i s t hexec => ?_, fun s t e he => ⟨fun c hexec hne => ?_, fun hexec hne => ?_⟩⟩
  · by_cases hsame : t = s
    · exact Or.inl (by rw [hsame])
    obtain rfl := (exec_cases hexec).resolve_left hsame
    rcases effectOf_cache i s with hkeep | hclear | ⟨hi, ha⟩
    · exact Or.inl hkeep
    · exact Or.inr (Or.inl hclear)
    · obtain ⟨f, d, ht, hdup, hd, hseq, hresponse⟩ := ha.cache
      exact Or.inr (Or.inr ⟨f, d, ⟨not_reset_of_exec hexec hi hsame, takeable_eq_some.1 ht⟩,
        isDuplicate_eq_false.1 hdup, hi, hd, hseq, hresponse⟩)
  · obtain rfl := (exec_cases hexec).resolve_left hne
    by_cases hc : c = .reset
    · subst hc
      rcases takeReset_answers (s := s) with hsame | hnone | ha
      · exact absurd hsame hne
      · exact Or.inl ⟨rfl, hnone⟩
      · exact Or.inr (ha.seq_ne he)
    · have heffect : effectOf (commandInstr c) s = s.runCommand c (commandEffect c) := by
        cases c <;> first | exact absurd rfl hc | rfl
      rw [heffect] at hne ⊢
      exact Or.inr (((runCommand_answers c).resolve_left hne).seq_ne he)
  · obtain rfl := (exec_cases hexec).resolve_left hne
    exact (takeUnknown_answers.resolve_left hne).seq_ne he

end Sys2Proof.Machine

/-! The device and link commands and those that only report or move a record's state (O8, O9, O10, O12, O15, O17). -/

namespace Sys2Proof.Machine

variable {s : State} {f : Frame} {i : Slot} {r : Record}

/-- The answer to a command whose payload is known. -/
theorem exec_of_payload {c : Command} {p reply : List Byte} {t : State} (hc : c ≠ .reset) (h : Takes s c f)
    (hp : f.payload = p) (he : commandEffect c p s.dropHead = (t, reply)) :
    exec (commandInstr c) s = .next { t with link := answered s.link f reply } := by
  subst hp
  exact exec_of_commandEffect hc h he

/-- A refusal of a command whose payload is known. -/
theorem exec_of_refusedPayload {c : Command} {p : List Byte} (status : Status) (hc : c ≠ .reset) (h : Takes s c f)
    (hp : f.payload = p) (he : commandEffect c p s.dropHead = s.dropHead.reply status) :
    exec (commandInstr c) s = .next { s with link := answered s.link f [statusByte status] } :=
  exec_of_payload (t := s.dropHead) hc h hp he

/-! ## IDENTIFY, STATUS and RESET (R182 to R184) -/

/-- Bits 1 to 7 of a byte are clear exactly when it is 0 or 1. -/
theorem extractLsb'_one_seven_eq_zero_iff {b : Byte} : b.extractLsb' 1 7 = 0 ↔ b.toNat ≤ 1 := by
  have hb := b.isLt
  rw [← BitVec.toNat_inj, BitVec.extractLsb'_toNat, Nat.shiftRight_eq_div_pow]
  change b.toNat / 2 ^ 1 % 2 ^ 7 = 0 ↔ b.toNat ≤ 1
  omega

/-- Of the bytes 0 and 1 only 1 has bit 0 set. -/
theorem getLsbD_zero_of_le_one {b : Byte} (h : b.toNat ≤ 1) : b.getLsbD 0 = decide (b = 1) := by
  rcases Nat.le_one_iff_eq_zero_or_eq_one.1 h with h0 | h1
  · rw [BitVec.eq_of_toNat_eq (y := 0#8) h0]
    rfl
  · rw [BitVec.eq_of_toNat_eq (y := 1#8) h1]
    rfl

theorem statusEffect_of_undefinedFlag {flags : Byte} (h : 2 ≤ flags.toNat) :
    statusEffect [flags] s = s.reply .badParam :=
  if_pos fun h0 => absurd (extractLsb'_one_seven_eq_zero_iff.1 h0) (Nat.not_le.2 h)

theorem statusEffect_of_flag {flags : Byte} (h : flags.toNat ≤ 1) :
    statusEffect [flags] s =
      State.replyOk { s with counters := if flags = 1 then Counters.reset else s.counters } (statusReport s) := by
  have hflags : (byteAt [flags] 0).extractLsb' 1 7 = 0 := extractLsb'_one_seven_eq_zero_iff.2 h
  have hclear : (byteAt [flags] 0).getLsbD 0 = decide (flags = 1) := getLsbD_zero_of_le_one h
  rw [statusEffect, if_neg (not_not_intro hflags), hclear]
  by_cases h1 : flags = 1
  · simp only [h1, decide_true, if_true]
  · simp only [h1, decide_false, if_false, Bool.false_eq_true]

/-- Settles O8: IDENTIFY leaves the state, STATUS is the case split on its flag byte. -/
theorem identifyAndStatusReport : Obligations.IdentifyAndStatusReport := by
  refine ⟨fun s f h => ?_, fun s f flags h hp => ⟨fun hbad => ?_, fun hflag => ?_⟩⟩
  · exact exec_of_commandEffect (c := .identify) (t := s.dropHead) (by decide) h rfl
  · exact exec_of_refusedPayload (c := .status) .badParam (by decide) h hp (statusEffect_of_undefinedFlag hbad)
  · exact exec_of_payload (c := .status) (by decide) h hp (statusEffect_of_flag (s := s.dropHead) hflag)

theorem receiverCleared_eq (x : Receiver) : receiverCleared x = if x = .lineBreak then .lineBreak else .hunt := by
  cases x <;> rfl

/-- Settles O9: the RESET that is taken is the soft reset. -/
theorem resetIsASoftReset : Obligations.ResetIsASoftReset := by
  intro s f h
  refine (exec_running h.1.1 .reset).trans (congrArg _ ((takeReset_of_takes h).trans ?_))
  rw [State.softReset, receiverCleared_eq]
  rfl

/-! ## CREDIT, HOLDLIMIT and STALLLIMIT (R120, R144, R160) -/

theorem creditEffect_of_tooMany {n : Byte} (h : 17 ≤ n.toNat) : creditEffect [n] s = s.reply .badParam := if_pos h

theorem creditEffect_of_fits {n : Byte} (h : n.toNat ≤ 16) :
    creditEffect [n] s =
      State.replyOk { s with notices := { s.notices with credit := min 16 (s.notices.credit + n.toNat) } }
        [natByte (min 16 (s.notices.credit + n.toNat))] := if_neg (Nat.not_lt.2 h)

theorem holdLimitEffect_of_zero {v : Byte} (h : v = 0) : holdLimitEffect [v] s = s.reply .badParam := if_pos h

theorem holdLimitEffect_of_pos {v : Byte} (h : v ≠ 0) :
    holdLimitEffect [v] s = State.replyOk { s with holdLimit := v } [v] := if_neg h

theorem stallLimitEffect_of_outOfRange {v : Byte} (h : v = 0 ∨ 51 ≤ v.toNat) :
    stallLimitEffect [v] s = s.reply .badParam := if_pos h

theorem stallLimitEffect_of_inRange {v : Byte} (h : 1 ≤ v.toNat ∧ v.toNat ≤ 50) :
    stallLimitEffect [v] s = State.replyOk { s with stallLimit := v } [v] := by
  refine if_neg ?_
  rintro (h0 | h51)
  · have hv : v = 0 := h0
    rw [hv] at h
    exact absurd h.1 (by decide)
  · exact absurd h51 (Nat.not_lt.2 h.2)

/-- Settles O10: each command by the case of its payload byte. -/
theorem creditAndTheLimitsAreSetWithinTheirRanges : Obligations.CreditAndTheLimitsAreSetWithinTheirRanges := by
  refine ⟨fun s f n h hp => ⟨fun hn => ?_, fun hn => ?_⟩, fun s f v h hp => ⟨fun hv => ?_, fun hv => ?_⟩,
    fun s f v h hp => ⟨fun hv => ?_, fun hv => ?_⟩⟩
  · exact exec_of_refusedPayload (c := .credit) .badParam (by decide) h hp (creditEffect_of_tooMany hn)
  · exact exec_of_payload (c := .credit) (by decide) h hp (creditEffect_of_fits (s := s.dropHead) hn)
  · exact exec_of_refusedPayload (c := .holdLimit) .badParam (by decide) h hp (holdLimitEffect_of_zero hv)
  · exact exec_of_payload (c := .holdLimit) (by decide) h hp (holdLimitEffect_of_pos (s := s.dropHead) hv)
  · exact exec_of_refusedPayload (c := .stallLimit) .badParam (by decide) h hp (stallLimitEffect_of_outOfRange hv)
  · exact exec_of_payload (c := .stallLimit) (by decide) h hp (stallLimitEffect_of_inRange (s := s.dropHead) hv)

/-! ## DETACH (R93, R130) -/

theorem State.retiring_eq_false (hr : s.record i = some r) (hs : r.state ≠ .retiring) : s.retiring i = false := by
  refine Bool.eq_false_iff.2 fun h => ?_
  obtain ⟨q, hq, hstate⟩ := State.retiring_iff.1 h
  obtain rfl : r = q := Option.some.inj (hr.symm.trans hq)
  exact hs hstate

theorem detachEffect_of_idle {p : List Byte} (h : s.engine.phase = .address ∨ (s.engine.detaching = false ∧
    (s.engine.phase = .listen ∨ s.engine.phase = .ignore ∨ s.engine.phase = .recover))) :
    detachEffect p s = State.reply { s with engine := s.engine.detachNow } .ok := by
  rcases h with hp | ⟨hm, hp | hp | hp⟩ <;> simp only [detachEffect, hp]
  all_goals exact if_neg (by rw [hm]; exact Bool.false_ne_true)

theorem detachEffect_of_open {p : List Byte} (h : phaseSupervised s.engine.phase = true) :
    detachEffect p s = State.reply { s with engine := { s.engine with detaching := true } } .deferred := by
  rcases phaseSupervised_eq_true h with hp | hp | hp | hp <;> simp only [detachEffect, hp]

theorem detachEffect_of_hold {p : List Byte} (h : s.engine.phase = .hold) :
    detachEffect p s = (s.endTransaction .detach).reply .ok := by
  simp only [detachEffect, h]

/-- Settles O12: the rows of R93's table by the phase; in a hold the end of the transaction. -/
theorem detachIsImmediateOrDeferred : Obligations.DetachIsImmediateOrDeferred := by
  refine fun s f h => ⟨fun hp => ?_, fun hp => ?_, fun hp => ?_, fun c r hp hc hr hs hres hserved => ?_⟩
  · refine exec_of_commandEffect (c := .detach) (t := s.dropHead) (by decide) h ?_
    simp only [commandEffect, detachEffect, State.dropHead_engine, hp]
    rfl
  · exact exec_of_commandEffect (c := .detach) (by decide) h (detachEffect_of_idle (p := f.payload) (s := s.dropHead) hp)
  · exact exec_of_commandEffect (c := .detach) (by decide) h (detachEffect_of_open (p := f.payload) (s := s.dropHead) hp)
  · have hend := State.endTransaction_plain (s := s.dropHead) (cause := .detach) hc hres (by simp [hserved])
      (State.retiring_eq_false (s := s.dropHead) hr hs) (by decide)
    refine (exec_of_commandEffect (c := .detach) (by decide) h
      ((detachEffect_of_hold (p := f.payload) (s := s.dropHead) hp).trans rfl)).trans ?_
    rw [hend]
    rfl

/-! ## ACTIVATE, QUIESCE and RESUME (R18 to R20) -/

/-- A command for one state finds its record in that state. -/
theorem withRecord_of_state {state : EndpointState} {effect : Record → Reply} (hr : s.record i = some r)
    (hs : r.state = state) :
    (withRecord s i fun r => if r.state = state then effect r else s.reply .badState) = effect r := by
  rw [withRecord_of_record hr, if_pos hs]

/-- Settles O15: each command finds the state it is for. -/
theorem lifecycleCommandsMoveTheState : Obligations.LifecycleCommandsMoveTheState := by
  refine fun s f i r hi hr => ⟨fun h hs => ?_, fun h hs => ?_, fun h hs => ?_⟩
  · exact exec_of_commandEffect (c := .activate) (by decide) h
      ((withSlot_of_slot hi _).trans (withRecord_of_state (s := s.dropHead) hr hs))
  · exact exec_of_commandEffect (c := .quiesce) (by decide) h
      ((withSlot_of_slot hi _).trans (withRecord_of_state (s := s.dropHead) hr hs))
  · exact exec_of_commandEffect (c := .resume) (by decide) h
      ((withSlot_of_slot hi _).trans (withRecord_of_state (s := s.dropHead) hr hs))

/-! ## QUERY and LOOKUP (R27, R43) -/

theorem exec_query {reply : List Byte} (h : Takes s .query f) (hi : Names f i) (hq : queryReport s i = reply) :
    exec .query s = .next { s with link := answered s.link f (0x00 :: reply) } := by
  subst hq
  exact exec_of_commandEffect (c := .query) (t := s.dropHead) (by decide) h (withSlot_of_slot hi _)

theorem exec_lookup {b : Byte} {reply : List Byte} (h : Takes s .lookup f) (hp : f.payload = [b])
    (hb : notSevenBit b = false) (hq : lookupReport s (sevenBit b) = reply) :
    exec .lookup s = .next { s with link := answered s.link f (0x00 :: reply) } := by
  subst hq
  refine exec_of_payload (c := .lookup) (t := s.dropHead) (by decide) h hp ?_
  exact if_neg (by rw [show byteAt [b] 0 = b from rfl, hb]; exact Bool.false_ne_true)

/-- The top bit of a byte is set from 0x80 on. -/
theorem notSevenBit_iff {b : Byte} : notSevenBit b = true ↔ 0x80 ≤ b.toNat := by
  have hb := b.isLt
  rw [notSevenBit, BitVec.getLsbD, Nat.testBit_eq_decide_div_mod_eq, decide_eq_true_eq]
  omega

theorem notSevenBit_eq_false {b : Byte} (h : b.toNat < 0x80) : notSevenBit b = false :=
  Bool.eq_false_iff.2 fun hb => absurd (notSevenBit_iff.1 hb) (Nat.not_le.2 h)

theorem sevenBit_eq (b : Byte) : sevenBit b = b.setWidth 7 := BitVec.setWidth_eq_extractLsb' (by decide) |>.symm

/-- Settles O17: the reports are those of the layouts, written out for the kind. -/
theorem queryAndLookupReport : Obligations.QueryAndLookupReport := by
  refine ⟨fun s f i h hi => ⟨fun hr => ?_, fun r b hr hb => ?_, fun r m hr hm => ?_⟩,
    fun s f b h hp => ⟨fun hb => ?_, fun hb hres => ?_, fun i r hb hres => ?_⟩⟩
  · refine exec_query h hi ?_
    simp only [queryReport, hr]
  · refine exec_query h hi ?_
    simp only [queryReport, hr, recordFlags, queryContent, kindByte, hb]
    rfl
  · refine exec_query h hi ?_
    simp only [queryReport, hr, recordFlags, queryContent, kindByte, hm]
    rfl
  · exact exec_of_refusedPayload (c := .lookup) .badParam (by decide) h hp (if_pos (notSevenBit_iff.2 hb))
  · refine exec_lookup h hp (notSevenBit_eq_false hb) ?_
    simp only [lookupReport, sevenBit_eq, hres]
    rfl
  · refine exec_lookup h hp (notSevenBit_eq_false hb) ?_
    simp only [lookupReport, sevenBit_eq, hres]
    rfl

end Sys2Proof.Machine

/-! The commands of the Register Store and of the Mailbox Unit on a record that is there (O20, O22, O23, O24), and RETIRE
(O16). -/

namespace Sys2Proof.Machine

variable {s : State} {f : Frame} {i : Slot} {r : Record} {p : List Byte}

/-! ## LOAD and FILL (R51 to R53, R122 to R124) -/

/-- With room in the Update Hold a LOAD to the pinned bank is held (R53). -/
theorem State.loadBank_of_room (hp : s.pinned i = true) (hroom : s.updateHold.length < 4) (hr : s.record i = some r)
    (b : Bank) (offset : Nat) (data : List Byte) (now later : Status) :
    s.loadBank i b offset data now later = State.reply { s with
      updateHold := s.updateHold ++ [{ slot := i, offset := offset, data := data }]
      table := s.table.set i.val (some r.reload) i.isLt } later := by
  have hkept : State.record { s with updateHold := s.updateHold ++ [{ slot := i, offset := offset, data := data }] } i =
      some r := hr
  rw [State.loadBank, if_pos hp, if_pos hroom]
  simp only
  rw [State.refresh_eq, hkept, Option.map_some]

/-- With four entries held it is BUSY (R53). -/
theorem State.loadBank_of_full (hp : s.pinned i = true) (hfull : 4 ≤ s.updateHold.length)
    (b : Bank) (offset : Nat) (data : List Byte) (now later : Status) :
    s.loadBank i b offset data now later = s.reply .busy := by
  rw [State.loadBank, if_pos hp, if_neg (Nat.not_lt.2 hfull)]

theorem loadEffect_of_mailbox {m : Mailbox} (hi : (byteAt p 0).toNat = i.val) (hr : s.record i = some r)
    (hs : r.state ≠ .retiring) (hm : r.content = .mailbox m) : loadEffect p s = s.reply .wrongKind := by
  rw [loadEffect, withSlot_of_slot hi, withUsable_of_usable hr hs, withBank_of_mailbox hm]

theorem loadEffect_of_outOfRange {b : Bank} (hi : (byteAt p 0).toNat = i.val) (hr : s.record i = some r)
    (hs : r.state ≠ .retiring) (hb : r.content = .bank b) (hrange : b.size < (byteAt p 1).toNat + (p.drop 2).length) :
    loadEffect p s = s.reply .outOfRange := by
  rw [loadEffect, withSlot_of_slot hi, withUsable_of_usable hr hs, withBank_of_bank hb, if_pos hrange]

/-- Settles O20: LOAD's checks, then the load of a pinned bank with and without room in the Update Hold. -/
theorem loadToAPinnedBankIsHeldOrBusy : Obligations.LoadToAPinnedBankIsHeldOrBusy := by
  refine fun s f i r h hi hr hs => ⟨fun m hm => ?_, fun b hb hrange => ?_, fun b hb hrange hp => ⟨fun hroom => ?_,
    fun hfull => ?_⟩⟩
  · exact exec_of_refusal (c := .load) (status := .wrongKind) (by decide) h
      (loadEffect_of_mailbox (s := s.dropHead) hi hr hs hm)
  · rw [← List.length_drop] at hrange
    exact exec_of_refusal (c := .load) (status := .outOfRange) (by decide) h
      (loadEffect_of_outOfRange (s := s.dropHead) hi hr hs hb hrange)
  · rw [← List.length_drop] at hrange
    exact exec_of_commandEffect (c := .load) (by decide) h
      ((loadEffect_of_inRange (s := s.dropHead) hi hr hs hb hrange).trans
        (State.loadBank_of_room (s := s.dropHead) hp hroom hr _ _ _ _ _))
  · rw [← List.length_drop] at hrange
    exact exec_of_refusal (c := .load) (status := .busy) (by decide) h
      ((loadEffect_of_inRange (s := s.dropHead) hi hr hs hb hrange).trans
        (State.loadBank_of_full (s := s.dropHead) hp hfull _ _ _ _ _))

theorem fillEffect_of_mailbox {m : Mailbox} (hi : (byteAt p 0).toNat = i.val) (hr : s.record i = some r)
    (hs : r.state ≠ .retiring) (hm : r.content = .mailbox m) : fillEffect p s = s.reply .wrongKind := by
  rw [fillEffect, withSlot_of_slot hi, withUsable_of_usable hr hs, withBank_of_mailbox hm]

theorem fillEffect_of_outOfRange {b : Bank} (hi : (byteAt p 0).toNat = i.val) (hr : s.record i = some r)
    (hs : r.state ≠ .retiring) (hb : r.content = .bank b) (hrange : b.size < (byteAt p 1).toNat + (p.drop 2).length) :
    fillEffect p s = s.reply .outOfRange := by
  rw [fillEffect, withSlot_of_slot hi, withUsable_of_usable hr hs, withBank_of_bank hb, if_pos hrange]

/-- Past its checks a FILL answers the FETCH hold of its bank, or is a LOAD (R122 to R124). -/
theorem fillEffect_of_inRange {b : Bank} (hi : (byteAt p 0).toNat = i.val) (hr : s.record i = some r)
    (hs : r.state ≠ .retiring) (hb : r.content = .bank b) (hrange : (byteAt p 1).toNat + (p.drop 2).length ≤ b.size) :
    (∀ c, s.fetchHold i = some c →
      fillEffect p s = (s.answerFetch i b c (byteAt p 1).toNat (p.drop 2)).reply .ok) ∧
    (s.fetchHold i = none → fillEffect p s = s.loadBank i b (byteAt p 1).toNat (p.drop 2) .late .late) := by
  rw [fillEffect, withSlot_of_slot hi, withUsable_of_usable hr hs, withBank_of_bank hb, if_neg (Nat.not_lt.2 hrange)]
  exact ⟨fun c hc => by rw [hc], fun hn => by rw [hn]⟩

theorem State.fetchHold_of_hold {c : Context} (hc : s.engine.ctx = some c) (hp : s.engine.phase = .hold)
    (hreason : c.holdReason = some .fetch) : s.fetchHold c.slot = some c := by
  simp only [State.fetchHold, hc, hp, hreason, and_self, if_true]

theorem State.fetchHold_of_other {c : Context} (hc : s.engine.ctx = some c) (h : ¬(s.engine.phase = .hold ∧
    c.holdReason = some .fetch)) (i : Slot) : s.fetchHold i = none := by
  simp only [State.fetchHold, hc]
  exact if_neg fun h' => h h'.2

theorem State.fetchHold_of_unpinned (h : s.pinned i = false) : s.fetchHold i = none := by
  cases hf : s.fetchHold i with
  | none => rfl
  | some c =>
    obtain ⟨hc, hi, -, -⟩ := State.fetchHold_eq_some hf
    rw [State.pinned_iff.2 ⟨c, hc, hi⟩] at h
    cases h

/-- The answer of a FETCH hold as one update of the state: the bytes, the refresh, and the ACK into READ (R123). -/
theorem State.answerFetch_eq {c : Context} (hr : s.record i = some r) (b : Bank) (offset : Nat) (data : List Byte) :
    s.answerFetch i b c offset data = { s with
      store := windowWrite s.store b.blocks offset data
      table := s.table.set i.val (some r.reload) i.isLt
      engine := { s.engine with
        phase := .read
        ctx := some { c with holdReason := none }
        holdTimer := none
        stallTimer := some s.stallLimit
        stretching := false
        sda := .ack (if s.engine.stretching then .driven else .due) } } := by
  rw [State.answerFetch, State.refresh_writeWindow hr]
  rfl

/-- Settles O22: a FILL for its FETCH hold is one write of the window, any other is a LOAD. -/
theorem fillAnswersTheHoldOrIsALateLoad : Obligations.FillAnswersTheHoldOrIsALateLoad := by
  refine ⟨?_, fun s f i r h hi hr hs => ⟨fun m hm => ?_, fun b hb hrange => ?_, fun b hb hrange => ⟨fun hp => ?_,
    fun c hc hci hother => ⟨fun hroom => ?_, fun hfull => ?_⟩⟩⟩⟩
  · rintro s f c r b _ _ h hi hr hs hb rfl rfl hrange hp hc hreason hwf hranges hnodup
    refine ⟨windowWrite s.store b.blocks _ _, ?_, windowWrite_wf hwf _ _ _,
      fun p hp => windowByte_windowWrite hwf hnodup _ _ p (hranges.lt_of_lt_size hp),
      memRead_windowWrite_other hwf _ _ _⟩
    refine (exec_of_commandEffect (c := .fill) (by decide) h
      ((fillEffect_of_inRange (s := s.dropHead) hi hr hs hb hrange).1 c
        (State.fetchHold_of_hold (s := s.dropHead) hc hp hreason))).trans ?_
    rw [State.answerFetch_eq (s := s.dropHead) hr]
    rfl
  · exact exec_of_refusal (c := .fill) (status := .wrongKind) (by decide) h
      (fillEffect_of_mailbox (s := s.dropHead) hi hr hs hm)
  · rw [← List.length_drop] at hrange
    exact exec_of_refusal (c := .fill) (status := .outOfRange) (by decide) h
      (fillEffect_of_outOfRange (s := s.dropHead) hi hr hs hb hrange)
  · rw [← List.length_drop] at hrange
    refine (exec_of_commandEffect (c := .fill) (by decide) h
      (((fillEffect_of_inRange (s := s.dropHead) hi hr hs hb hrange).2
        (State.fetchHold_of_unpinned (s := s.dropHead) hp)).trans
        (State.loadBank_of_unpinned (s := s.dropHead) hp _ _ _ _ _))).trans ?_
    rw [State.refresh_writeWindow (s := s.dropHead) hr]
    rfl
  · rw [← List.length_drop] at hrange
    exact exec_of_commandEffect (c := .fill) (by decide) h
      (((fillEffect_of_inRange (s := s.dropHead) hi hr hs hb hrange).2
        (State.fetchHold_of_other (s := s.dropHead) hc hother i)).trans
        (State.loadBank_of_room (s := s.dropHead) (State.pinned_iff.2 ⟨c, hc, hci⟩) hroom hr _ _ _ _ _))
  · rw [← List.length_drop] at hrange
    exact exec_of_refusal (c := .fill) (status := .busy) (by decide) h
      (((fillEffect_of_inRange (s := s.dropHead) hi hr hs hb hrange).2
        (State.fetchHold_of_other (s := s.dropHead) hc hother i)).trans
        (State.loadBank_of_full (s := s.dropHead) (State.pinned_iff.2 ⟨c, hc, hci⟩) hfull _ _ _ _ _))

/-! ## POST and FLUSH (R101, R102, R109 to R112) -/

theorem withMailbox_of_mailbox {m : Mailbox} (h : r.content = .mailbox m) (effect : Mailbox → Reply) :
    withMailbox s r effect = effect m := by
  rw [withMailbox, h]

theorem withMailbox_of_bank {b : Bank} (h : r.content = .bank b) (effect : Mailbox → Reply) :
    withMailbox s r effect = s.reply .wrongKind := by
  rw [withMailbox, h]

theorem postEffect_of_badCount (hi : (byteAt p 0).toNat = i.val) (hcount : (byteAt p 1).toNat ≠ (p.drop 2).length) :
    postEffect p s = s.reply .badParam := by
  rw [postEffect, withSlot_of_slot hi, if_pos (Or.inr (Or.inr hcount))]

/-- A POST of an allowed length whose count is the number of its message bytes passes the count check (R101, R189). -/
theorem postCount_of_allowed (hlen : lengthAllowed .post p.length = true)
    (hcount : (byteAt p 1).toNat = (p.drop 2).length) :
    ¬(byteAt p 1 = 0 ∨ Config.messageBytes < (byteAt p 1).toNat ∨ (byteAt p 1).toNat ≠ (p.drop 2).length) := by
  have hbounds : 3 ≤ p.length ∧ p.length ≤ 34 := by simpa [lengthAllowed] using hlen
  rw [List.length_drop] at hcount
  exact postCount_fits (by omega) (by omega) (by omega)

theorem postEffect_of_refused (hlen : lengthAllowed .post p.length = true) (hi : (byteAt p 0).toNat = i.val)
    (hcount : (byteAt p 1).toNat = (p.drop 2).length) (h : ∀ r, s.record i = some r → r.state = .retiring) :
    postEffect p s = s.reply .badState := by
  rw [postEffect, withSlot_of_slot hi, if_neg (postCount_of_allowed hlen hcount), withUsable_of_refused h]

/-- What POST does once the record is there: the kind, the depth and the pool, and then the message (R101, R102). -/
theorem postEffect_of_usable (hlen : lengthAllowed .post p.length = true) (hi : (byteAt p 0).toNat = i.val)
    (hcount : (byteAt p 1).toNat = (p.drop 2).length) (hr : s.record i = some r) (hs : r.state ≠ .retiring) :
    (∀ b, r.content = .bank b → postEffect p s = s.reply .wrongKind) ∧
    (∀ m, r.content = .mailbox m → m.depth ≤ m.queue.length → postEffect p s = s.reply .full) ∧
    (∀ m, r.content = .mailbox m → m.queue.length < m.depth → s.freeBuffers = [] →
      postEffect p s = s.reply .noSpace) ∧
    (∀ m k rest, r.content = .mailbox m → m.queue.length < m.depth → s.freeBuffers = k :: rest →
      postEffect p s = (s.postMessage i r m k rest (p.drop 2)).reply .ok) := by
  rw [postEffect, withSlot_of_slot hi, if_neg (postCount_of_allowed hlen hcount), withUsable_of_usable hr hs]
  refine ⟨fun b hb => withMailbox_of_bank hb _, fun m hm hfull => ?_, fun m hm hroom hfree => ?_,
    fun m k rest hm hroom hfree => ?_⟩
  · rw [withMailbox_of_mailbox hm, if_pos hfull]
  · rw [withMailbox_of_mailbox hm, if_neg (Nat.not_le.2 hroom), hfree]
  · rw [withMailbox_of_mailbox hm, if_neg (Nat.not_le.2 hroom), hfree]

/-- Settles O23: POST's checks in order; the lowest-numbered free buffer is the head of the ascending pool. -/
theorem postAppendsTheMessage : Obligations.PostAppendsTheMessage := by
  rintro s f i _ h hi rfl
  obtain ⟨-, -, -, hlen⟩ := id h
  refine ⟨fun hcount => ?_, fun hcount hrefused => ?_, fun r hcount hr hs => ?_⟩
  · exact exec_of_refusal (c := .post) (status := .badParam) (by decide) h (postEffect_of_badCount hi hcount)
  · refine exec_of_refusal (c := .post) (status := .badState) (by decide) h
      (postEffect_of_refused (s := s.dropHead) hlen hi hcount fun r hr => ?_)
    rcases hrefused with hfree | ⟨q, hq, hstate⟩
    · exact absurd (hfree.symm.trans hr) nofun
    · obtain rfl : q = r := Option.some.inj (hq.symm.trans hr)
      exact hstate
  · obtain ⟨hbank, hfull, hspace, hpost⟩ := postEffect_of_usable (s := s.dropHead) hlen hi hcount hr hs
    refine ⟨fun b hb => ?_, fun m hm hdepth => ?_, fun m hm hroom hfree => ?_,
      fun m k rest hm hroom hfree => ⟨?_, fun hrising => ?_⟩⟩
    · exact exec_of_refusal (c := .post) (status := .wrongKind) (by decide) h (hbank b hb)
    · exact exec_of_refusal (c := .post) (status := .full) (by decide) h (hfull m hm hdepth)
    · exact exec_of_refusal (c := .post) (status := .noSpace) (by decide) h (hspace m hm hroom hfree)
    · exact exec_of_commandEffect (c := .post) (by decide) h (hpost m k rest hm hroom hfree)
    · rw [hfree] at hrising
      exact (List.pairwise_cons.1 hrising).1

theorem flushEffect_of_bank {b : Bank} (hi : (byteAt p 0).toNat = i.val) (hr : s.record i = some r)
    (hb : r.content = .bank b) : flushEffect p s = s.reply .wrongKind := by
  rw [flushEffect, withSlot_of_slot hi, withRecord_of_record hr, withMailbox_of_bank hb]

theorem flushEffect_of_mailbox {m : Mailbox} (hi : (byteAt p 0).toNat = i.val) (hr : s.record i = some r)
    (hm : r.content = .mailbox m) :
    (s.servedMessage i = none →
      flushEffect p s = (s.flushAll i r m).replyOk [natByte m.queue.length, boolByte false]) ∧
    (∀ k, s.servedMessage i = some k → flushEffect p s =
      (s.flushAround i r m k).replyOk [natByte (m.queue.filter (· != k)).length, boolByte true]) := by
  rw [flushEffect, withSlot_of_slot hi, withRecord_of_record hr, withMailbox_of_mailbox hm]
  exact ⟨fun h => by rw [h], fun k h => by rw [h]⟩

theorem State.servedMessage_eq_none (h : ∀ c k, s.engine.ctx = some c → c.slot = i → c.direction = .read →
    c.served ≠ .message k) : s.servedMessage i = none := by
  cases hs : s.servedMessage i with
  | none => rfl
  | some k =>
    obtain ⟨c, hc, hi, hd, hk⟩ := State.servedMessage_eq_some hs
    exact absurd hk (h c k hc hi hd)

/-- Of a queue that holds each buffer once, only the head is the head, and the rest is what is not (R112). -/
theorem filter_head_of_nodup {k : BufferNo} {rest : List BufferNo} (h : (k :: rest).Nodup) :
    (k :: rest).filter (· == k) = [k] ∧ (k :: rest).filter (· != k) = rest := by
  have hne (l : BufferNo) (hl : l ∈ rest) : l ≠ k := fun he => (List.nodup_cons.1 h).1 (he ▸ hl)
  constructor
  · rw [List.filter_cons, if_pos (beq_self_eq_true k), List.filter_eq_nil_iff.2 fun l hl => by simp [hne l hl]]
  · rw [List.filter_cons, if_neg (by simp), List.filter_eq_self.2 fun l hl => by simp [hne l hl]]

/-- Settles O24: FLUSH by whether the mailbox has a served message. -/
theorem flushRemovesAllButTheServedMessage : Obligations.FlushRemovesAllButTheServedMessage := by
  refine fun s f i r h hi hr => ⟨fun b hb => ?_, fun m hm hnone => ?_,
    fun m c k rest hm hc hci hread hserved hqueue hnodup => ?_⟩
  · exact exec_of_refusal (c := .flush) (status := .wrongKind) (by decide) h
      (flushEffect_of_bank (s := s.dropHead) hi hr hb)
  · exact exec_of_commandEffect (c := .flush) (by decide) h
      ((flushEffect_of_mailbox (s := s.dropHead) hi hr hm).1 (State.servedMessage_eq_none (s := s.dropHead) hnone))
  · subst hci
    have hk := State.servedMessage_of_ctx (s := s.dropHead) hc hread hserved
    refine (exec_of_commandEffect (c := .flush) (by decide) h
      ((flushEffect_of_mailbox (s := s.dropHead) hi hr hm).2 k hk)).trans ?_
    rw [hqueue] at hnodup
    obtain ⟨hhead, hrest⟩ := filter_head_of_nodup hnodup
    rw [State.flushAround, hqueue, hhead, hrest]
    rfl

/-! ## RETIRE (R21 to R23) -/

theorem retireEffect_of_unpinned (hi : (byteAt p 0).toNat = i.val) (hr : s.record i = some r) (hs : r.state ≠ .retiring)
    (hp : s.pinned i = false) : retireEffect p s = (s.freeRecord i).reply .ok := by
  rw [retireEffect, withSlot_of_slot hi, withUsable_of_usable hr hs, hp, if_neg Bool.false_ne_true]

theorem retireEffect_of_pinned (hi : (byteAt p 0).toNat = i.val) (hr : s.record i = some r) (hs : r.state ≠ .retiring)
    (hp : s.pinned i = true) : retireEffect p s =
      if s.engine.phase = .hold then ((s.endTransaction .retire).freeRecord i).reply .ok
      else (s.setRecord i (some { r with state := .retiring })).reply .deferred := by
  rw [retireEffect, withSlot_of_slot hi, withUsable_of_usable hr hs, if_pos hp]

/-- RETIRE's end of a hold: nothing was reserved or served, and the Update Hold is discarded (R23, R59). -/
theorem State.endTransaction_retire {c : Context} (hc : s.engine.ctx = some c) (hres : c.reserved = false)
    (hserved : ∀ k, c.served ≠ .message k) (hn : s.retiring c.slot = false) :
    s.endTransaction .retire = { s with
      updateHold := []
      engine := { endedEngine .ignore s.engine.detaching with sda := .nack } } := by
  have hdiscard : s.settleUpdateHold c .retire = { s with updateHold := [] } := rfl
  have hkept : State.retiring { s with updateHold := [] } c.slot = false := hn
  simp only [State.endTransaction, State.unpin_some hc, State.settleReservation_keeps hres,
    State.settleHead_keeps hserved, hdiscard, State.settleRetirement_keeps hkept]
  rfl

/-- Settles O16: freed at once, deferred under a pin, and in a hold the end of the transaction before the freeing. -/
theorem retireFreesDefersOrEndsAHold : Obligations.RetireFreesDefersOrEndsAHold := by
  refine ⟨fun s f i r h hi hr hs => ⟨fun hp => ?_, fun hp hhold => ?_⟩,
    fun s f c r h hi hhold hc hr hs hres hserved => ?_⟩
  · refine (exec_of_commandEffect (c := .retire) (by decide) h
      (retireEffect_of_unpinned (s := s.dropHead) hi hr hs hp)).trans ?_
    rw [State.freeRecord_eq]
    rfl
  · exact exec_of_commandEffect (c := .retire) (by decide) h
      ((retireEffect_of_pinned (s := s.dropHead) hi hr hs hp).trans (if_neg hhold))
  · have hend := State.endTransaction_retire (s := s.dropHead) hc hres (by simp [hserved])
      (State.retiring_eq_false (s := s.dropHead) hr hs)
    refine (exec_of_commandEffect (c := .retire) (by decide) h
      ((retireEffect_of_pinned (s := s.dropHead) hi hr hs (State.pinned_iff.2 ⟨c, hc, rfl⟩)).trans
        (if_pos hhold))).trans ?_
    rw [hend, State.freeRecord_eq]
    rfl

end Sys2Proof.Machine

/-! INSTALL: the checks of R12 one by one, the slot it chooses (R15), and the slot it fills (O13, O14; R12 to R16, R46). -/

namespace Sys2Proof.Machine

variable {s : State} {f : Frame} {q : InstallFields} {i : Slot}

/-! ## BAD_PARAM (R13) -/

/-- The codes of R187 that name no write policy. -/
theorem policyOf_isNone_iff {code : BitVec 4} :
    (policyOf code).isNone = true ↔ code ≠ 0 ∧ code ≠ 1 ∧ code ≠ 2 := by
  unfold policyOf
  split
  · simp_all
  · split
    · simp_all
    · split <;> simp_all

/-- A code that names a write policy is that policy's code (R187). -/
theorem policyByte_of_policyOf {code : BitVec 4} {policy : WritePolicy} (h : policyOf code = some policy) :
    policyByte policy = code.setWidth 8 := by
  unfold policyOf at h
  split at h
  · rename_i hc
    cases h
    rw [hc]
    rfl
  · split at h
    · rename_i hc
      cases h
      rw [hc]
      rfl
    · split at h
      · rename_i hc
        cases h
        rw [hc]
        rfl
      · cases h

/-- The fields that fit no kind of a BANK (R13). -/
theorem installBadParam_of_bank (hk : q.kindCode = 0) :
    installBadParam q = true ↔ 0x80 ≤ q.address.toNat ∨ 0x80 ≤ q.mask.toNat ∨ q.undefinedFlag = true ∨
      (q.size = 0 ∨ 256 < q.size.toNat ∨ (q.policyCode ≠ 0 ∧ q.policyCode ≠ 1 ∧ q.policyCode ≠ 2) ∨
        q.acceptInbound = true) := by
  rw [installBadParam, if_pos hk]
  simp only [Bool.or_eq_true, notSevenBit_iff, beq_iff_eq, decide_eq_true_eq, policyOf_isNone_iff, or_assoc]

theorem installBadParam_of_mailbox (hk : q.kindCode = 1) :
    installBadParam q = true ↔ 0x80 ≤ q.address.toNat ∨ 0x80 ≤ q.mask.toNat ∨ q.undefinedFlag = true ∨
      (q.depth = 0 ∨ 8 < q.depth.toNat ∨ q.fetchOnRead = true) := by
  rw [installBadParam, if_neg (by rw [hk]; decide), if_pos hk]
  simp only [Bool.or_eq_true, notSevenBit_iff, beq_iff_eq, decide_eq_true_eq, or_assoc]

theorem installBadParam_of_noKind (h0 : q.kindCode ≠ 0) (h1 : q.kindCode ≠ 1) : installBadParam q = true := by
  rw [installBadParam, if_neg h0, if_neg h1, Bool.or_true]

/-- The cases of BAD_PARAM are those R13 lists. -/
theorem installBadParam_iff : installBadParam q = true ↔
    0x80 ≤ q.address.toNat ∨ 0x80 ≤ q.mask.toNat ∨ (q.kindCode ≠ 0 ∧ q.kindCode ≠ 1) ∨
    q.undefinedFlag = true ∨
    (q.kindCode = 0 ∧ (q.size = 0 ∨ 256 < q.size.toNat ∨
      (q.policyCode ≠ 0 ∧ q.policyCode ≠ 1 ∧ q.policyCode ≠ 2) ∨ q.acceptInbound = true)) ∨
    (q.kindCode = 1 ∧ (q.depth = 0 ∨ 8 < q.depth.toNat ∨ q.fetchOnRead = true)) := by
  have h01 : (0 : BitVec 2) ≠ 1 := by decide
  by_cases h0 : q.kindCode = 0
  · rw [installBadParam_of_bank h0]
    simp only [h0, h01, ne_eq, not_true, false_and, true_and, false_or, or_false]
  · by_cases h1 : q.kindCode = 1
    · rw [installBadParam_of_mailbox h1]
      simp only [h1, h01.symm, ne_eq, not_true, and_false, false_and, true_and, false_or]
    · exact iff_of_true (installBadParam_of_noKind h0 h1) (Or.inr (Or.inr (Or.inl ⟨h0, h1⟩)))

/-! ## BAD_ADDRESS and OVERLAP (R14) -/

/-- Every address is one of the 128. -/
theorem wholeSetReserved_iff {address mask : Address} :
    wholeSetReserved address mask = true ↔ ∀ a, inAddressSet address mask a = true → reservedAddress a = true := by
  rw [wholeSetReserved, List.all_eq_true]
  constructor
  · intro h a ha
    have hk := h a.toNat (List.mem_range.2 a.isLt)
    rw [BitVec.ofNat_toNat, BitVec.setWidth_eq, ha] at hk
    exact hk
  · intro h k _
    rw [Bool.or_eq_true, Bool.not_eq_true']
    cases hk : inAddressSet address mask (BitVec.ofNat 7 k) with
    | false => exact Or.inl rfl
    | true => exact Or.inr (h _ hk)

theorem hasUsableAddress_iff :
    HasUsableAddress q ↔ wholeSetReserved (sevenBit q.address) (sevenBit q.mask) = false := by
  rw [← Bool.not_eq_true, wholeSetReserved_iff, HasUsableAddress]
  simp only [inAddressSet_storedAddress, reservedAddress_iff, not_forall, not_or, Nat.not_le, exists_prop]

theorem sharesAddress_iff :
    SharesAddress s q ↔ overlaps s.table (sevenBit q.address) (sevenBit q.mask) = true := by
  rw [overlaps_iff, SharesAddress]
  refine exists_congr fun j => exists_congr fun r => ?_
  rw [setsIntersect_iff_exists_common]
  simp only [inAddressSet_storedAddress, exists_and_left]

/-! ## NO_SLOT (R15) -/

/-- The slot byte asks for a slot, or for any (R12, R15). -/
abbrev SlotByteFits (q : InstallFields) : Prop := q.slot.toNat < 48 ∨ q.slot = 0xFF

theorem slotOf_noSlot : slotOf 0xFF = none := rfl

/-- The first FREE slot is the lowest-numbered one (R15). -/
theorem find?_finRange_eq_some_iff {n : Nat} {p : Fin n → Bool} {i : Fin n} :
    (List.finRange n).find? p = some i ↔ p i = true ∧ ∀ j, j < i → p j = false := by
  rw [← Fin.find?_eq_find?_finRange, Fin.find?_eq_some_iff]

theorem chooseSlot_eq_some_iff (hslot : SlotByteFits q) : chooseSlot s q.slot = some i ↔ Chosen s q i := by
  rcases hslot with hlt | hany
  · have hne : q.slot ≠ 0xFF := fun h => by
      rw [h] at hlt
      exact absurd hlt (by decide)
    have hnamed : slotOf q.slot = some ⟨q.slot.toNat, hlt⟩ := slotOf_eq_some.2 rfl
    simp only [chooseSlot, hnamed, Chosen, hne, false_and, or_false, Option.isNone_iff_eq_none]
    constructor
    · intro h
      split at h
      · rename_i hfree
        cases h
        exact ⟨hfree, rfl⟩
      · cases h
    · rintro ⟨hfree, hval⟩
      obtain rfl : (⟨q.slot.toNat, hlt⟩ : Slot) = i := Fin.ext hval
      exact if_pos hfree
  · have hnone : q.slot.toNat ≠ i.val := fun h => by
      rw [hany] at h
      exact absurd (h ▸ i.isLt) (by decide)
    simp only [chooseSlot, hany, slotOf_noSlot, Chosen, find?_finRange_eq_some_iff, Option.isNone_iff_eq_none,
      true_and]
    rw [← hany]
    simp only [hnone, false_or, Option.isNone_eq_false_iff, Option.isSome_iff_ne_none]

theorem chooseSlot_eq_none_iff (hslot : SlotByteFits q) : chooseSlot s q.slot = none ↔ ∀ i, ¬Chosen s q i := by
  rw [Option.eq_none_iff_forall_ne_some]
  exact forall_congr' fun i => not_congr (chooseSlot_eq_some_iff hslot)

theorem Chosen.slotByteFits (h : Chosen s q i) : SlotByteFits q := by
  rcases h.2 with hval | ⟨hany, -⟩
  · exact Or.inl (hval ▸ i.isLt)
  · exact Or.inr hany

/-! ## The checks in order (R12) -/

theorem installCheck_of_badSlot (h : 48 ≤ q.slot.toNat ∧ q.slot ≠ 0xFF) : installCheck s q = .error .badSlot := if_pos h

theorem not_badSlot (hslot : SlotByteFits q) : ¬(48 ≤ q.slot.toNat ∧ q.slot ≠ noSlot) :=
  fun ⟨h48, hne⟩ => hslot.elim (Nat.not_lt.2 h48) hne

theorem installCheck_of_badParam (hslot : SlotByteFits q) (h : installBadParam q = true) :
    installCheck s q = .error .badParam := by
  rw [installCheck, if_neg (not_badSlot hslot), if_pos h]

theorem installCheck_of_reserved (hslot : SlotByteFits q) (hparam : installBadParam q = false)
    (h : ¬HasUsableAddress q) : installCheck s q = .error .badAddress := by
  rw [hasUsableAddress_iff, Bool.not_eq_false] at h
  rw [installCheck, if_neg (not_badSlot hslot), hparam, if_neg Bool.false_ne_true, if_pos h]

theorem installCheck_of_overlap (hslot : SlotByteFits q) (hparam : installBadParam q = false)
    (husable : HasUsableAddress q) (h : SharesAddress s q) : installCheck s q = .error .overlap := by
  rw [installCheck, if_neg (not_badSlot hslot), hparam, if_neg Bool.false_ne_true, hasUsableAddress_iff.1 husable,
    if_neg Bool.false_ne_true, if_pos (sharesAddress_iff.1 h)]

/-- The checks that are left once the fields and the address have passed: a slot, and blocks for a bank (R15, R46). -/
def State.placeInstall (s : State) (q : InstallFields) : Except Status Slot :=
  match chooseSlot s q.slot with
  | none => .error .noSlot
  | some i =>
    if q.kindCode = 0 ∧ s.freeBlocks.length < blocksNeeded q.size.toNat then .error .noSpace
    else .ok i

theorem installCheck_of_address (hslot : SlotByteFits q) (hparam : installBadParam q = false)
    (husable : HasUsableAddress q) (hshares : ¬SharesAddress s q) : installCheck s q = s.placeInstall q := by
  rw [installCheck, if_neg (not_badSlot hslot), hparam, if_neg Bool.false_ne_true, hasUsableAddress_iff.1 husable,
    if_neg Bool.false_ne_true, if_neg (mt sharesAddress_iff.2 hshares)]
  rfl

theorem State.placeInstall_of_chosen (h : Chosen s q i) : s.placeInstall q =
    if q.kindCode = 0 ∧ s.freeBlocks.length < blocksNeeded q.size.toNat then .error .noSpace else .ok i := by
  rw [State.placeInstall, (chooseSlot_eq_some_iff h.slotByteFits).2 h]

theorem installCheck_of_noSlot (hslot : SlotByteFits q) (hparam : installBadParam q = false)
    (husable : HasUsableAddress q) (hshares : ¬SharesAddress s q) (h : ∀ i, ¬Chosen s q i) :
    installCheck s q = .error .noSlot := by
  rw [installCheck_of_address hslot hparam husable hshares, State.placeInstall, (chooseSlot_eq_none_iff hslot).2 h]

theorem installCheck_of_noSpace (hparam : installBadParam q = false) (husable : HasUsableAddress q)
    (hshares : ¬SharesAddress s q) (hchosen : Chosen s q i) (hk : q.kindCode = 0)
    (h : s.freeBlocks.length < blocksNeeded q.size.toNat) : installCheck s q = .error .noSpace := by
  rw [installCheck_of_address hchosen.slotByteFits hparam husable hshares, State.placeInstall_of_chosen hchosen,
    if_pos ⟨hk, h⟩]

theorem installCheck_of_accepts (h : Accepts s q i) : installCheck s q = .ok i := by
  obtain ⟨hparam, husable, hshares, hchosen, hspace⟩ := h
  rw [installCheck_of_address hchosen.slotByteFits hparam husable hshares, State.placeInstall_of_chosen hchosen,
    if_neg fun hfew => absurd hfew.2 (Nat.not_lt.2 (hspace hfew.1))]

/-! ## The answer -/

theorem exec_install_of_error {status : Status} (h : Takes s .install f)
    (he : installCheck s (installFields f.payload) = .error status) :
    exec .install s = .next { s with link := answered s.link f [statusByte status, 0xFF] } := by
  have heffect : installEffect f.payload s.dropHead = (s.dropHead, [statusByte status, noSlot]) := by
    have hdrop : installCheck s.dropHead (installFields f.payload) = .error status := he
    rw [installEffect, hdrop]
  exact exec_of_commandEffect (c := .install) (t := s.dropHead) (by decide) h heffect

theorem exec_install_of_ok (h : Takes s .install f) (hok : installCheck s (installFields f.payload) = .ok i) :
    exec .install s = .next { s.installAt i (installFields f.payload) with
      link := answered s.link f [0x00, natByte i.val] } := by
  have heffect : installEffect f.payload s.dropHead =
      (s.dropHead.installAt i (installFields f.payload)).replyOk [slotByte i] := by
    have hdrop : installCheck s.dropHead (installFields f.payload) = .ok i := hok
    rw [installEffect, hdrop]
  refine (exec_of_commandEffect (c := .install) (by decide) h heffect).trans ?_
  unfold State.installAt
  simp only
  split <;> rfl

/-- Settles O14: R13's list is `installBadParam`, and each check of R12 has its equation. -/
theorem installReportsTheFirstFailedCheck : Obligations.InstallReportsTheFirstFailedCheck := by
  refine ⟨fun q => installBadParam_iff, ?_⟩
  rintro s f _ rfl h
  refine ⟨fun hbad => ?_, fun hslot => ⟨fun hbad => ?_, fun hparam => ⟨fun hreserved => ?_, fun husable =>
    ⟨fun hshares => ?_, fun hshares => ⟨fun hnone => ?_, fun i hchosen hk hfew => ?_⟩⟩⟩⟩⟩
  · exact exec_install_of_error (status := .badSlot) h (installCheck_of_badSlot hbad)
  · exact exec_install_of_error (status := .badParam) h (installCheck_of_badParam hslot hbad)
  · exact exec_install_of_error (status := .badAddress) h (installCheck_of_reserved hslot hparam hreserved)
  · exact exec_install_of_error (status := .overlap) h (installCheck_of_overlap hslot hparam husable hshares)
  · exact exec_install_of_error (status := .noSlot) h (installCheck_of_noSlot hslot hparam husable hshares hnone)
  · exact exec_install_of_error (status := .noSpace) h (installCheck_of_noSpace hparam husable hshares hchosen hk hfew)

/-! ## The slot filled (R16) -/

/-- The blocks taken from an ascending pool are its lowest-numbered ones (R45, R46). -/
theorem take_lt_drop_of_rising {pool : List BlockNo} (h : pool.Pairwise (· < ·)) (n : Nat) :
    ∀ k ∈ pool.take n, ∀ l ∈ pool.drop n, k < l := by
  rw [← List.take_append_drop n pool] at h
  exact (List.pairwise_append.1 h).2.2

theorem installPolicy_of_accepted (hk : q.kindCode = 0) (h : installBadParam q = false) :
    policyByte (installPolicy q) = q.policyCode.setWidth 8 := by
  cases hp : policyOf q.policyCode with
  | some policy => rw [installPolicy, hp, Option.getD_some, policyByte_of_policyOf hp]
  | none =>
    have hnone : (policyOf q.policyCode).isNone = true := by rw [hp, Option.isNone_none]
    exact absurd ((installBadParam_of_bank hk).2
      (Or.inr (Or.inr (Or.inr (Or.inr (Or.inr (Or.inl (policyOf_isNone_iff.1 hnone))))))))
      (by rw [h]; exact Bool.false_ne_true)

/-- Filling the whole window leaves the fill byte in every window byte and no other cell changed (R46). -/
theorem fillWindow {m : Memory} (hm : m.wf = true) {blocks : List BlockNo} (hn : blocks.Nodup) {size : Nat}
    (hsize : size ≤ 16 * blocks.length) (fill : Byte) :
    Memory.wf (windowWrite m blocks 0 (List.replicate size fill)) = true ∧
    (∀ p, p < size → windowByte (windowWrite m blocks 0 (List.replicate size fill)) blocks p = fill) ∧
    ∀ a, (∀ p, p < size → windowCell blocks p ≠ some a) →
      memRead (windowWrite m blocks 0 (List.replicate size fill)) a = memRead m a := by
  refine ⟨windowWrite_wf hm _ _ _, fun p hp => ?_, fun a ha => ?_⟩
  · rw [windowByte_windowWrite hm hn 0 _ p (Nat.lt_of_lt_of_le hp hsize), List.length_replicate, Nat.zero_add,
      if_pos ⟨Nat.zero_le p, hp⟩, Nat.sub_zero, List.getD_replicate _ hp]
  · refine memRead_windowWrite_other hm blocks 0 _ a fun k hk => ?_
    rw [List.length_replicate] at hk
    rw [Nat.zero_add]
    exact ha k hk

/-- Settles O13: the accepted INSTALL is `installAt`, and its one window write is the fill. -/
theorem installFillsASlot : Obligations.InstallFillsASlot := by
  refine ⟨?bank, ?mailbox⟩
  case bank =>
    rintro s f i h haccepts hk hwf hrising _ _ rfl rfl
    obtain ⟨hparam, -, -, -, hspace⟩ := id haccepts
    refine ⟨take_lt_drop_of_rising hrising _, ?_⟩
    have hlength : (installBlocks s (installFields f.payload)).length =
        ((installFields f.payload).size.toNat + 15) / 16 := by
      rw [installBlocks, List.length_take, Nat.min_eq_left (hspace hk)]
      rfl
    have hnodup : (installBlocks s (installFields f.payload)).Nodup :=
      (hrising.imp fun h => ne_of_lt h).sublist (List.take_sublist _ _)
    obtain ⟨hstore, hfill, hother⟩ := fillWindow hwf hnodup (size := (installFields f.payload).size.toNat)
      (by omega) (installFields f.payload).fill
    refine ⟨_, installPolicy (installFields f.payload), installPolicy_of_accepted hk hparam, ?_, hstore, hfill, hother⟩
    rw [exec_install_of_ok h (installCheck_of_accepts haccepts), State.installAt_of_bank hk, installRecord,
      installContent_of_bank hk]
    rfl
  case mailbox =>
    rintro s f i _ rfl h haccepts hk
    have hne : (installFields f.payload).kindCode ≠ 0 := by
      rw [hk]
      decide
    rw [exec_install_of_ok h (installCheck_of_accepts haccepts), State.installAt_of_mailbox hne, installRecord,
      installContent_of_mailbox hne]
    rfl

end Sys2Proof.Machine

/-! The end of a transaction as one update of the state (R77, R78): of a record that stays and of one that retires; and
the held LOADs it applies (R58). -/

namespace Sys2Proof.Machine

/-! ## The engine -/

/-- The engine after the unpin: no context, no timer, SCL not held (R69, R77). -/
def Engine.unpinned (e : Engine) : Engine :=
  { e with ctx := none, holdTimer := none, stallTimer := none, stretching := false }

section

variable (e : Engine)

theorem Engine.unpinned_afterEnd_stop :
    e.unpinned.afterEnd .stop = endedEngine (if e.detaching then .detached else .listen) false := by
  cases h : e.detaching <;> simp [Engine.afterEnd, Engine.unpinned, endedEngine, h]

theorem Engine.unpinned_afterEnd_start : e.unpinned.afterEnd .start = endedEngine .address e.detaching := rfl

theorem Engine.unpinned_afterEnd_abandonment :
    e.unpinned.afterEnd .abandonment = endedEngine (if e.detaching then .detached else .recover) false := by
  cases h : e.detaching <;> simp [Engine.afterEnd, Engine.unpinned, endedEngine, h]

theorem Engine.unpinned_afterEnd_expiry :
    e.unpinned.afterEnd .expiry = { endedEngine .ignore e.detaching with sda := .nack } := rfl

end

/-! ## The steps apart -/

section

variable {s : State} {c : Context} {r : Record} {cause : EndCause}

/-- Step 2 does not depend on the Notice Queue, which is all that step 1 changes. -/
theorem State.settleHead_notices (s : State) (n : NoticeQueue) (c : Context) (cause : EndCause) :
    State.settleHead { s with notices := n } c cause = { s.settleHead c cause with notices := n } := by
  have hrecord : State.record { s with notices := n } c.slot = s.record c.slot := rfl
  have hbuffer (k : BufferNo) : State.buffer { s with notices := n } k = s.buffer k := rfl
  unfold State.settleHead
  simp only [hrecord, hbuffer]
  split
  · split
    · split <;> rfl
    · rfl
  · rfl

theorem State.settleReservation_settleHead (s : State) (c : Context) (cause : EndCause) :
    (s.settleReservation c cause).settleHead c cause =
      { s.settleHead c cause with notices := (s.settleReservation c cause).notices } := by
  rw [State.settleReservation_frame, State.settleHead_notices]

/-- The removal of a message from a mailbox does not matter to the held LOADs, which are for banks (R51, R58). -/
theorem applyHeld_set_mailbox {m m' : Mailbox} (hr : s.record c.slot = some r) (hm : r.content = .mailbox m) :
    applyHeld (s.setContent c.slot r (.mailbox m')).table = applyHeld s.table := by
  funext store h
  unfold applyHeld
  by_cases hslot : h.slot = c.slot
  · have hnew : (s.setContent c.slot r (.mailbox m')).table[h.slot.val]'h.slot.isLt =
        some { r with content := .mailbox m' } := by
      have := s.record_setContent c.slot h.slot r (.mailbox m')
      rwa [if_pos hslot] at this
    have hold : s.table[h.slot.val]'h.slot.isLt = some r := by
      rw [← hslot] at hr
      exact hr
    rw [hnew, hold]
    simp only [hm]
  · have hsame : (s.setContent c.slot r (.mailbox m')).table[h.slot.val]'h.slot.isLt =
        s.table[h.slot.val]'h.slot.isLt := by
      have := s.record_setContent c.slot h.slot r (.mailbox m')
      rwa [if_neg hslot] at this
    rw [hsame]

theorem applyHeld_settleHead (s : State) (c : Context) (cause : EndCause) :
    applyHeld (s.settleHead c cause).table = applyHeld s.table := by
  rcases s.settleHead_cases c cause with h | ⟨r, m, k, hr, hm, -, h⟩ <;> rw [h]
  exact applyHeld_set_mailbox hr hm

/-! ## The whole sequence -/

/-- The end of a transaction whose record stays: the head settled, the Update Hold applied unless RETIRE ends it, the
reservation settled. -/
theorem State.endTransaction_of_stays (hc : s.engine.ctx = some c) (hn : s.retiring c.slot = false) :
    s.endTransaction cause = { s.settleHead c cause with
      store := if cause = .retire then s.store else s.updateHold.foldl (applyHeld s.table) s.store
      updateHold := []
      notices := (s.settleReservation c cause).notices
      engine := s.engine.unpinned.afterEnd cause } := by
  have htwo := s.settleReservation_settleHead c cause
  have hstays : ((s.settleReservation c cause).settleHead c cause).retiring c.slot = false := by
    rw [htwo]
    exact (s.retiring_settleHead c cause c.slot).trans hn
  have hthree : ((s.settleReservation c cause).settleHead c cause).settleUpdateHold c cause =
      { s.settleHead c cause with
        store := if cause = .retire then s.store else s.updateHold.foldl (applyHeld s.table) s.store
        updateHold := []
        notices := (s.settleReservation c cause).notices } := by
    obtain ⟨hstore, hhold⟩ := s.settleHead_settleReservation c cause
    rw [State.settleUpdateHold_frame, State.settleUpdateHold_store, hstays, hstore, hhold]
    simp only [Bool.false_eq_true, or_false]
    rw [htwo, applyHeld_settleHead]
  have hkept : State.retiring { s.settleHead c cause with
        store := if cause = .retire then s.store else s.updateHold.foldl (applyHeld s.table) s.store
        updateHold := []
        notices := (s.settleReservation c cause).notices } c.slot = false :=
    (s.retiring_settleHead c cause c.slot).trans hn
  rw [State.endTransaction_eq, State.unpin_some hc, hthree, State.settleRetirement_keeps hkept]
  rfl

/-- A served message is the head of its mailbox's queue (R104). -/
abbrev ServedIsHead (c : Context) (r : Record) : Prop :=
  ∀ k, c.served = .message k → ∃ m rest, r.content = .mailbox m ∧ m.queue = k :: rest

/-- What the freeing of the pinned record gives back does not depend on whether step 2 has taken the served message out
of its queue: its buffer is free either way (R99, R108). -/
theorem State.freeRecord_settleHead (hr : s.record c.slot = some r) (hserved : ServedIsHead c r) :
    (s.settleHead c cause).freeRecord c.slot = s.freeRecord c.slot := by
  rcases s.settleHead_cases c cause with h | ⟨r', m, k, hr', hm, hk, h⟩ <;> rw [h]
  obtain rfl : r' = r := Option.some.inj (hr'.symm.trans hr)
  obtain ⟨m', rest, hm', hqueue⟩ := hserved k hk
  obtain rfl : m' = m := Content.mailbox.inj (hm'.symm.trans hm)
  have hset : State.record (s.removeServed c.slot r' m' k) c.slot =
      some { r' with content := .mailbox { m' with queue := m'.queue.erase k, headFlushed := false } } :=
    s.record_setRecord_same c.slot _
  simp only [State.freeRecord, hset, hr, hm]
  rw [hqueue, List.erase_cons_head, ← poolReturn_poolInsert]
  simp only [State.removeServed, State.setContent, State.setRecord, Vector.set_set]

/-- Step 2 leaves a record with the state and the tag it had. -/
theorem State.settleHead_record (hr : s.record c.slot = some r) :
    ∃ q, (s.settleHead c cause).record c.slot = some q ∧ q.state = r.state ∧ q.tag = r.tag := by
  rcases s.settleHead_cases c cause with h | ⟨r', m, k, hr', -, -, h⟩ <;> rw [h]
  · exact ⟨r, hr, rfl, rfl⟩
  · obtain rfl : r' = r := Option.some.inj (hr'.symm.trans hr)
    exact ⟨_, s.record_setRecord_same c.slot _, rfl, rfl⟩

/-- The freeing of a record leaves the Update Hold and the Notice Queue to others. -/
theorem State.freeRecord_with (t : State) (h : List HeldLoad) (n : NoticeQueue) (i : Slot) :
    State.freeRecord { t with updateHold := h, notices := n } i =
      { t.freeRecord i with updateHold := h, notices := n } := by
  rw [State.freeRecord_eq, State.freeRecord_eq]
  rfl

/-- A RETIRING record's end of a transaction: the record as step 2 leaves it is freed, the Update Hold is discarded, and
RETIRED asks for an entry behind the data notice (R25, R59). -/
theorem State.endTransaction_frees (hc : s.engine.ctx = some c) (hr : s.record c.slot = some r)
    (hs : r.state = .retiring) :
    s.endTransaction cause = { (s.settleHead c cause).freeRecord c.slot with
      updateHold := []
      notices := (s.settleReservation c cause).notices.raise { slot := c.slot, tag := r.tag, body := .retired }
      engine := s.engine.unpinned.afterEnd cause } := by
  obtain ⟨q, hq, hstate, htag⟩ := s.settleHead_record (cause := cause) hr
  have hdiscard : ((s.settleReservation c cause).settleHead c cause).settleUpdateHold c cause =
      { s.settleHead c cause with updateHold := [], notices := (s.settleReservation c cause).notices } := by
    rw [s.settleReservation_settleHead, State.settleUpdateHold]
    refine if_pos ?_
    rw [Bool.or_eq_true]
    exact Or.inr (State.retiring_iff.2 ⟨q, hq, hstate.trans hs⟩)
  have hrecord : State.record
      { s.settleHead c cause with updateHold := [], notices := (s.settleReservation c cause).notices } c.slot = some q := hq
  rw [State.endTransaction_eq, State.unpin_some hc, hdiscard, State.settleRetirement, hrecord]
  simp only [if_pos (hstate.trans hs), htag]
  rw [State.freeRecord_with]
  rfl

/-- The same with what is freed written out: the served message is among it (R25, R99). -/
theorem State.endTransaction_of_retiring (hc : s.engine.ctx = some c) (hr : s.record c.slot = some r)
    (hs : r.state = .retiring) (hserved : ServedIsHead c r) :
    s.endTransaction cause = { s with
      table := s.table.set c.slot.val none c.slot.isLt
      freeBlocks := poolReturn (s.blocksOf c.slot) s.freeBlocks
      freeBuffers := poolReturn (s.queueOf c.slot) s.freeBuffers
      updateHold := []
      notices := (s.settleReservation c cause).notices.raise { slot := c.slot, tag := r.tag, body := .retired }
      engine := s.engine.unpinned.afterEnd cause } := by
  rw [State.endTransaction_frees hc hr hs, State.freeRecord_settleHead hr hserved, State.freeRecord_eq]

end

end Sys2Proof.Machine

/-! How a transaction ends: by STOP, repeated START, an expiry or an abandonment (O44 to O49). -/

namespace Sys2Proof.Machine

variable {s : State} {c : Context} {r : Record} {cause : EndCause}

/-! ## The Notice Queue -/

/-- An event notice joins the tail, or is lost and sets the overflow flag (R138). -/
theorem NoticeQueue.raise_eq (q : NoticeQueue) (n : Notice) :
    q.raise n = if q.completed.length + q.reservation.toNat < 32 then { q with completed := q.completed ++ [n] }
      else { q with overflow := true } := by
  rcases q.raise_cases n with ⟨h, he⟩ | ⟨h, he⟩ <;> rw [he]
  · exact (if_pos h).symm
  · exact (if_neg (Nat.not_lt.2 h)).symm

theorem EndCause.normal_iff : cause.normal = true ↔ cause = .stop ∨ cause = .start := by
  cases cause <;> simp [EndCause.normal]

/-- Step 1 as one choice: nothing reserved, the data notice, or the release (R77, R141). -/
theorem State.settleReservation_notices (hr : s.record c.slot = some r) :
    (s.settleReservation c cause).notices =
      if c.reserved = false then s.notices
      else if (cause = .stop ∨ cause = .start) ∧ c.collected ≠ [] then { s.notices with
        reservation := false, completed := s.notices.completed ++ [dataNotice r c] }
      else { s.notices with reservation := false } := by
  cases hres : c.reserved with
  | false => rw [State.settleReservation_keeps hres, if_pos rfl]
  | true =>
    have hcond : (cause.normal && !c.collected.isEmpty) = true ↔
        (cause = .stop ∨ cause = .start) ∧ c.collected ≠ [] := by
      rw [Bool.and_eq_true, EndCause.normal_iff, Bool.not_eq_true', List.isEmpty_eq_false_iff]
    rw [State.settleReservation, if_pos hres, hr, if_neg Bool.noConfusion]
    by_cases h : (cause = .stop ∨ cause = .start) ∧ c.collected ≠ []
    · rw [if_pos h]
      simp only [if_pos (hcond.2 h)]
      rfl
    · rw [if_neg h]
      simp only [if_neg (mt hcond.1 h)]
      rfl

/-- The end of a transaction that is neither STOP nor START releases what was reserved (R141, R163). -/
theorem State.settleReservation_released (hr : s.record c.slot = some r) (hcause : cause.normal = false)
    (hres : s.notices.reservation = c.reserved) :
    (s.settleReservation c cause).notices = { s.notices with reservation := false } := by
  rw [State.settleReservation_notices hr]
  cases hc : c.reserved with
  | false =>
    rw [if_pos rfl]
    rw [hc] at hres
    rw [← hres]
  | true =>
    refine (if_neg Bool.noConfusion).trans (if_neg fun h => ?_)
    exact absurd ((EndCause.normal_iff.2 h.1).symm.trans hcause) nofun

/-! ## STOP and repeated START -/

theorem exec_stopCondition_of_pins (h : s.hardReset = false) (hp : phasePins s.engine.phase = true) :
    exec .stopCondition s = .next (s.endTransaction .stop) := by
  refine (exec_running h .stopCondition).trans (congrArg _ ?_)
  rcases s.stopCondition_cases with ⟨hq, -⟩ | ⟨hq, -, -, -⟩ | ⟨hq, -, -⟩ | ⟨-, he⟩
  · rw [hq] at hp
    cases hp
  · rw [hq] at hp
    cases hp
  · rw [hq] at hp
    cases hp
  · exact he

theorem exec_startCondition_of_pins (h : s.hardReset = false) (hp : phasePins s.engine.phase = true) :
    exec .startCondition s = .next (s.endTransaction .start) := by
  refine (exec_running h .startCondition).trans (congrArg _ ?_)
  rcases s.startCondition_cases with ⟨hq, -⟩ | ⟨hq, -, -⟩ | ⟨-, he⟩
  · rw [hq] at hp
    cases hp
  · rw [hq] at hp
    cases hp
  · exact he

/-- A STOP whose record stays. -/
theorem exec_stopCondition_of_stays (h : s.hardReset = false) (hp : phasePins s.engine.phase = true)
    (hc : s.engine.ctx = some c) (hn : s.retiring c.slot = false) :
    exec .stopCondition s = .next { s.settleHead c .stop with
      store := s.updateHold.foldl (applyHeld s.table) s.store
      updateHold := []
      notices := (s.settleReservation c .stop).notices
      engine := endedEngine (if s.engine.detaching then .detached else .listen) false } := by
  rw [exec_stopCondition_of_pins h hp, State.endTransaction_of_stays hc hn, Engine.unpinned_afterEnd_stop]
  rfl

/-- A repeated START whose record stays. -/
theorem exec_startCondition_of_stays (h : s.hardReset = false) (hp : phasePins s.engine.phase = true)
    (hc : s.engine.ctx = some c) (hn : s.retiring c.slot = false) :
    exec .startCondition s = .next { s.settleHead c .start with
      store := s.updateHold.foldl (applyHeld s.table) s.store
      updateHold := []
      notices := (s.settleReservation c .start).notices
      engine := endedEngine .address s.engine.detaching } := by
  rw [exec_startCondition_of_pins h hp, State.endTransaction_of_stays hc hn, Engine.unpinned_afterEnd_start]
  rfl

/-- Settles O44: with no served message step 2 does nothing, and STOP and START complete the reservation alike. -/
theorem aWriteEndsWithItsNotice : Obligations.AWriteEndsWithItsNotice := by
  rintro s c r q h hp hc hr hs hserved rfl
  have hn := State.retiring_eq_false hr hs
  have hqueue {cause : EndCause} (hcause : cause = .stop ∨ cause = .start) :
      (s.settleReservation c cause).notices =
        if c.reserved = false then s.notices
        else if c.collected = [] then { s.notices with reservation := false }
        else { s.notices with
          reservation := false, completed := s.notices.completed ++ [dataNotice r c] } := by
    rw [State.settleReservation_notices hr]
    by_cases hempty : c.collected = [] <;> simp [hcause, hempty]
  rw [exec_stopCondition_of_stays h hp hc hn, exec_startCondition_of_stays h hp hc hn,
    State.settleHead_keeps hserved, State.settleHead_keeps hserved, hqueue (Or.inl rfl), hqueue (Or.inr rfl)]
  exact ⟨rfl, rfl⟩

/-! ## The served message -/

section

variable {m : Mailbox} {k : BufferNo} {rest : List BufferNo}

/-- Step 2 removes the served message when it is marked, or driven in full under STOP or START (R107). -/
theorem State.settleHead_removes (hr : s.record c.slot = some r) (hm : r.content = .mailbox m)
    (hserved : c.served = .message k) (hqueue : m.queue = k :: rest)
    (h : m.headFlushed = true ∨ ((cause = .stop ∨ cause = .start) ∧ c.headServed = (s.buffer k).length)) :
    s.settleHead c cause = { s with
      table := s.table.set c.slot.val
        (some { r with content := .mailbox { m with queue := rest, headFlushed := false } }) c.slot.isLt
      freeBuffers := poolInsert k s.freeBuffers } := by
  have hcond : (m.headFlushed || (cause.normal && c.headServed == (s.buffer k).length)) = true := by
    rwa [Bool.or_eq_true, Bool.and_eq_true, EndCause.normal_iff, beq_iff_eq]
  simp only [State.settleHead, hr, hserved, hm, if_pos hcond, State.removeServed, hqueue, List.erase_cons_head]
  rfl

/-- Otherwise it leaves the served message where it is (R107). -/
theorem State.settleHead_leaves (hr : s.record c.slot = some r) (hm : r.content = .mailbox m)
    (hserved : c.served = .message k) (hmark : m.headFlushed = false)
    (h : (cause ≠ .stop ∧ cause ≠ .start) ∨ c.headServed ≠ (s.buffer k).length) : s.settleHead c cause = s := by
  have hcond : ¬(m.headFlushed || (cause.normal && c.headServed == (s.buffer k).length)) = true := by
    rw [hmark, Bool.false_or, Bool.and_eq_true, EndCause.normal_iff, beq_iff_eq]
    rintro ⟨hnormal, hfull⟩
    exact h.elim (fun hne => hnormal.elim hne.1 hne.2) fun hne => hne hfull
  simp only [State.settleHead, hr, hserved, hm, if_neg hcond]

end

/-- Settles O45: step 2 by its two cases, and the rest of the sequence for a record that stays. -/
theorem theServedMessageIsSettled : Obligations.TheServedMessageIsSettled := by
  refine ⟨fun s c r m k rest cause hc hr hm hs hres hserved hqueue hhold => ⟨fun h => ?_, fun hmark h => ?_⟩,
    fun s c r m k rest hreset hp hc hr hm hs hres hserved hqueue => ⟨fun h => ?_, fun hmark h => ?_⟩⟩
  · rw [State.endTransaction_of_stays hc (State.retiring_eq_false hr hs), State.settleReservation_keeps hres,
      State.settleHead_removes hr hm hserved hqueue h, hhold, List.foldl_nil, ite_self]
    exact ⟨s.record_setRecord_same c.slot _, rfl, rfl, rfl⟩
  · rw [State.endTransaction_of_stays hc (State.retiring_eq_false hr hs), State.settleReservation_keeps hres,
      State.settleHead_leaves hr hm hserved hmark h, hhold, List.foldl_nil, ite_self]
    exact ⟨rfl, rfl, rfl, rfl⟩
  · have hn := State.retiring_eq_false hr hs
    rw [exec_stopCondition_of_stays hreset hp hc hn, exec_startCondition_of_stays hreset hp hc hn,
      State.settleHead_removes hr hm hserved hqueue (h.imp_right fun hfull => ⟨Or.inl rfl, hfull⟩),
      State.settleHead_removes hr hm hserved hqueue (h.imp_right fun hfull => ⟨Or.inr rfl, hfull⟩),
      State.settleReservation_keeps hres, State.settleReservation_keeps hres]
    exact ⟨rfl, rfl⟩
  · have hn := State.retiring_eq_false hr hs
    rw [exec_stopCondition_of_stays hreset hp hc hn, exec_startCondition_of_stays hreset hp hc hn,
      State.settleHead_leaves hr hm hserved hmark (Or.inr h), State.settleHead_leaves hr hm hserved hmark (Or.inr h),
      State.settleReservation_keeps hres, State.settleReservation_keeps hres]
    exact ⟨rfl, rfl⟩

/-! ## The held LOADs -/

/-- What an entry leaves in window byte `p`, if it covers it (R57, R58). -/
def HeldLoad.covers (h : HeldLoad) (i : Slot) (p : Nat) : Option Byte :=
  if h.slot = i ∧ h.offset ≤ p ∧ p < h.offset + h.data.length then h.data[p - h.offset]? else none

/-- Of two entries the later one decides (R58). -/
theorem heldByte_cons (i : Slot) (p : Nat) (h : HeldLoad) (rest : List HeldLoad) :
    heldByte i p (h :: rest) = (heldByte i p rest).or (h.covers i p) := by
  rw [heldByte, HeldLoad.covers]
  cases heldByte i p rest <;> rfl

section

variable {b : Bank} {h : HeldLoad} {es : List HeldLoad} {m : Memory}

/-- An entry for the bank of slot `i` is one write of its window (R58). -/
theorem applyHeld_of_bank (hr : s.record c.slot = some r) (hb : r.content = .bank b) (hslot : h.slot = c.slot)
    (m : Memory) : applyHeld s.table m h = windowWrite m b.blocks h.offset h.data := by
  have hrecord : s.table[h.slot.val]'h.slot.isLt = some r := by
    rw [← hslot] at hr
    exact hr
  simp only [applyHeld, hrecord, hb]

theorem windowByte_applyHeld (hr : s.record c.slot = some r) (hb : r.content = .bank b) (hslot : h.slot = c.slot)
    (hm : m.wf = true) (hn : b.blocks.Nodup) {p : Nat} (hp : p < 16 * b.blocks.length) :
    windowByte (applyHeld s.table m h) b.blocks p = (h.covers c.slot p).getD (windowByte m b.blocks p) := by
  rw [applyHeld_of_bank hr hb hslot, windowByte_windowWrite hm hn _ _ p hp, HeldLoad.covers]
  by_cases hcovers : h.offset ≤ p ∧ p < h.offset + h.data.length
  · rw [if_pos hcovers, if_pos ⟨hslot, hcovers⟩, List.getD_eq_getElem?_getD]
    have hlt : p - h.offset < h.data.length := by omega
    rw [List.getElem?_eq_getElem hlt, Option.getD_some, Option.getD_some]
  · rw [if_neg hcovers, if_neg fun hall => hcovers hall.2, Option.getD_none]

/-- The entries oldest first leave in each window byte the value of the latest that covers it (R58). -/
theorem windowByte_foldl_applyHeld (hr : s.record c.slot = some r) (hb : r.content = .bank b)
    (hes : ∀ h ∈ es, h.slot = c.slot) (hm : m.wf = true) (hn : b.blocks.Nodup) {p : Nat}
    (hp : p < 16 * b.blocks.length) :
    windowByte (es.foldl (applyHeld s.table) m) b.blocks p =
      (heldByte c.slot p es).getD (windowByte m b.blocks p) := by
  induction es generalizing m with
  | nil => rfl
  | cons h rest ih =>
    rw [List.foldl_cons, ih (fun x hx => hes x (List.mem_cons_of_mem h hx)) (applyHeld_wf hm s.table h),
      windowByte_applyHeld hr hb (hes h List.mem_cons_self) hm hn hp, heldByte_cons]
    cases heldByte c.slot p rest <;> rfl

/-- No byte outside the window changes (R58). -/
theorem memRead_foldl_applyHeld (hr : s.record c.slot = some r) (hb : r.content = .bank b)
    (hes : ∀ h ∈ es, h.slot = c.slot ∧ h.offset + h.data.length ≤ b.size) (hm : m.wf = true) {a : Nat}
    (ha : ∀ p, p < b.size → windowCell b.blocks p ≠ some a) :
    memRead (es.foldl (applyHeld s.table) m) a = memRead m a := by
  induction es generalizing m with
  | nil => rfl
  | cons h rest ih =>
    obtain ⟨hslot, hrange⟩ := hes h List.mem_cons_self
    rw [List.foldl_cons, ih (fun x hx => hes x (List.mem_cons_of_mem h hx)) (applyHeld_wf hm s.table h),
      applyHeld_of_bank hr hb hslot]
    exact memRead_windowWrite_other hm b.blocks h.offset h.data a fun k hk => ha _ (by omega)

end

/-- Settles O46: the store at the end is the fold of the held entries, by induction on them. -/
theorem heldLoadsAreAppliedAtTheEnd : Obligations.HeldLoadsAreAppliedAtTheEnd := by
  intro s c r b cause hc hr hb hs hcause hwf hranges hn hes
  rw [State.endTransaction_of_stays hc (State.retiring_eq_false hr hs), if_neg hcause]
  refine ⟨rfl, applyHeld_foldl_wf hwf _ _, fun p hp => ?_, fun a ha => memRead_foldl_applyHeld hr hb hes hwf ha⟩
  refine (windowByte_foldl_applyHeld hr hb (fun h hh => (hes h hh).1) hwf hn (hranges.lt_of_lt_size hp)).trans ?_
  cases heldByte c.slot p s.updateHold <;> rfl

/-! ## A deferred retirement -/

/-- Settles O47: the sequence for a RETIRING record, whose step 1 is the choice of the data notice. -/
theorem aDeferredRetirementIsCompleted : Obligations.ADeferredRetirementIsCompleted := by
  rintro s c r cause q _ hc hr hs hserved hq rfl
  have hqueue : (s.settleReservation c cause).notices.raise { slot := c.slot, tag := r.tag, body := .retired } =
      if q.completed.length + q.reservation.toNat < 32 then
        { q with completed := q.completed ++ [{ slot := c.slot, tag := r.tag, body := .retired }] }
      else { q with overflow := true } := by
    rw [State.settleReservation_notices hr, NoticeQueue.raise_eq, hq]
    rfl
  have hend := State.endTransaction_of_retiring (cause := cause) hc hr hs hserved
  rw [hqueue] at hend
  refine ⟨?_, fun hreset hp => ⟨?_, ?_⟩⟩
  · rw [hend]
    exact ⟨s.record_setRecord_same c.slot none, fun j hj => s.record_setRecord_ne hj none, rfl, rfl, rfl, rfl, rfl⟩
  · rintro rfl
    rw [exec_stopCondition_of_pins hreset hp, hend, Engine.unpinned_afterEnd_stop]
  · rintro rfl
    rw [exec_startCondition_of_pins hreset hp, hend, Engine.unpinned_afterEnd_start]

/-! ## The expiries -/

theorem State.tagOf_of_record {i : Slot} (hr : s.record i = some r) : s.tagOf i = r.tag := by
  rw [State.tagOf, hr]

theorem State.holdExpiry_of_hold {reason : HoldReason} (hp : s.engine.phase = .hold) (hc : s.engine.ctx = some c)
    (ht : s.engine.holdTimer ≠ none) (hreason : c.holdReason = some reason) (hr : s.record c.slot = some r) :
    s.holdExpiry = { (s.endTransaction .expiry).raise { slot := c.slot, tag := r.tag, body := .holdExpired reason } with
      counters := { s.counters with holdExpiry := countUp s.counters.holdExpiry } } := by
  simp only [State.holdExpiry, hc, hreason, State.tagOf_of_record hr,
    if_pos (⟨hp, Option.isSome_iff_ne_none.2 ht⟩ : s.engine.phase = .hold ∧ s.engine.holdTimer.isSome = true),
    State.raise_counters, State.endTransaction_counters]

/-- Settles O48: the plain end of the transaction, then the notice and the count. -/
theorem aHoldExpires : Obligations.AHoldExpires := by
  rintro s c r reason q hreset hp hc ht hreason hres hserved hr hs rfl
  refine (exec_running hreset .holdExpiry).trans (congrArg _
    ((State.holdExpiry_of_hold hp hc ht hreason hr).trans ?_))
  rw [State.endTransaction_of_stays hc (State.retiring_eq_false hr hs), State.settleReservation_keeps hres,
    State.settleHead_keeps (by simp [hserved]), Engine.unpinned_afterEnd_expiry, countUp_eq, State.raise,
    NoticeQueue.raise_eq]
  rfl

theorem exec_abandonment (hreset : s.hardReset = false) (hp : phaseSupervised s.engine.phase = true)
    (hc : s.engine.ctx = some c) (ht : s.engine.stallTimer ≠ none) (hr : s.record c.slot = some r) :
    exec .abandonment s = .next { (s.endTransaction .abandonment).raise
        { slot := c.slot, tag := r.tag, body := .busStall s.engine.phase } with
      counters := { s.counters with
        busStall := if s.counters.busStall = 0xFFFF then 0xFFFF else s.counters.busStall + 1 } } := by
  refine (exec_running hreset .abandonment).trans (congrArg _ ?_)
  have hcond : (phaseSupervised s.engine.phase && s.engine.stallTimer.isSome) = true := by
    rw [hp, Bool.true_and]
    exact Option.isSome_iff_ne_none.2 ht
  rw [← countUp_eq]
  simp only [effectOf, State.abandonment, hc, State.tagOf_of_record hr, if_pos hcond, State.raise_counters,
    State.endTransaction_counters]

/-- An abandonment whose record stays: with the reservation released there is room below 32 completed notices (R163). -/
theorem exec_abandonment_of_stays (hreset : s.hardReset = false) (hp : phaseSupervised s.engine.phase = true)
    (hc : s.engine.ctx = some c) (ht : s.engine.stallTimer ≠ none) (hr : s.record c.slot = some r)
    (hs : r.state ≠ .retiring) (hres : s.notices.reservation = c.reserved) :
    exec .abandonment s = .next { s.settleHead c .abandonment with
      store := s.updateHold.foldl (applyHeld s.table) s.store
      updateHold := []
      notices :=
        if s.notices.completed.length < 32 then
          { s.notices with
            reservation := false
            completed := s.notices.completed ++
              [{ slot := c.slot, tag := r.tag, body := .busStall s.engine.phase }] }
        else { s.notices with reservation := false, overflow := true }
      engine := endedEngine (if s.engine.detaching then .detached else .recover) false
      counters := { s.counters with
        busStall := if s.counters.busStall = 0xFFFF then 0xFFFF else s.counters.busStall + 1 } } := by
  rw [exec_abandonment hreset hp hc ht hr, State.endTransaction_of_stays hc (State.retiring_eq_false hr hs),
    State.settleReservation_released hr rfl hres, Engine.unpinned_afterEnd_abandonment, State.raise,
    NoticeQueue.raise_eq]
  rfl

/-- RETIRED ahead of BUS_STALL: both queued, one, or none (R25, R138). -/
theorem NoticeQueue.raise_two (q : NoticeQueue) (n n' : Notice) :
    (({ q with reservation := false } : NoticeQueue).raise n).raise n' =
      if q.completed.length + 2 ≤ 32 then { q with reservation := false, completed := q.completed ++ [n, n'] }
      else if q.completed.length < 32 then
        { q with reservation := false, overflow := true, completed := q.completed ++ [n] }
      else { q with reservation := false, overflow := true } := by
  have hraise (l : List Notice) (o : Bool) (x : Notice) :
      ({ q with reservation := false, completed := l, overflow := o } : NoticeQueue).raise x =
        if l.length < 32 then { q with reservation := false, completed := l ++ [x], overflow := o }
        else { q with reservation := false, completed := l, overflow := true } :=
    NoticeQueue.raise_eq _ x
  rw [hraise]
  by_cases hone : q.completed.length < 32
  · rw [if_pos hone, hraise, List.length_append, List.length_singleton, List.append_assoc, List.singleton_append,
      if_pos hone]
    rfl
  · rw [if_neg hone, hraise, if_neg hone, if_neg hone, if_neg (by omega)]

/-- An abandonment that completes a deferred retirement (R25, R163). -/
theorem exec_abandonment_of_retiring (hreset : s.hardReset = false) (hp : phaseSupervised s.engine.phase = true)
    (hc : s.engine.ctx = some c) (ht : s.engine.stallTimer ≠ none) (hr : s.record c.slot = some r)
    (hs : r.state = .retiring) (hserved : ServedIsHead c r) (hres : s.notices.reservation = c.reserved) :
    exec .abandonment s = .next { s with
      table := s.table.set c.slot.val none c.slot.isLt
      freeBlocks := poolReturn (s.blocksOf c.slot) s.freeBlocks
      freeBuffers := poolReturn (s.queueOf c.slot) s.freeBuffers
      updateHold := []
      notices :=
        if s.notices.completed.length + 2 ≤ 32 then
          { s.notices with
            reservation := false
            completed := s.notices.completed ++
              [{ slot := c.slot, tag := r.tag, body := .retired },
               { slot := c.slot, tag := r.tag, body := .busStall s.engine.phase }] }
        else if s.notices.completed.length < 32 then
          { s.notices with
            reservation := false
            overflow := true
            completed := s.notices.completed ++ [{ slot := c.slot, tag := r.tag, body := .retired }] }
        else { s.notices with reservation := false, overflow := true }
      engine := endedEngine (if s.engine.detaching then .detached else .recover) false
      counters := { s.counters with
        busStall := if s.counters.busStall = 0xFFFF then 0xFFFF else s.counters.busStall + 1 } } := by
  rw [exec_abandonment hreset hp hc ht hr, State.endTransaction_of_retiring hc hr hs hserved,
    State.settleReservation_released hr rfl hres, Engine.unpinned_afterEnd_abandonment, State.raise,
    NoticeQueue.raise_two]

/-- Settles O49: the end by abandonment, then BUS_STALL and the count; the served message stays or is removed by its mark. -/
theorem aStalledTransactionIsAbandoned : Obligations.AStalledTransactionIsAbandoned := by
  refine ⟨?stays, ?removed, ?retiring, ?bothQueued⟩
  case stays =>
    rintro s c r room q hreset hp hc ht hr hs hmark hres rfl rfl
    have hhead : s.settleHead c .abandonment = s := by
      cases hserved : c.served with
      | unfixed => exact State.settleHead_keeps (by simp [hserved])
      | empty => exact State.settleHead_keeps (by simp [hserved])
      | message k =>
        cases hcontent : r.content with
        | bank b => exact State.settleHead_bank hr hcontent
        | mailbox m =>
          exact State.settleHead_leaves hr hcontent hserved (hmark m k hcontent hserved) (Or.inl ⟨by decide, by decide⟩)
    rw [exec_abandonment_of_stays hreset hp hc ht hr hs hres, hhead]
  case removed =>
    rintro s c r m k rest q hreset hp hc ht hr hs hm hserved hqueue hmark hres rfl
    rw [exec_abandonment_of_stays hreset hp hc ht hr hs hres,
      State.settleHead_removes hr hm hserved hqueue (Or.inl hmark)]
  case retiring =>
    rintro s c r room q hreset hp hc ht hr hs hserved hres rfl rfl
    exact exec_abandonment_of_retiring hreset hp hc ht hr hs hserved hres
  case bothQueued =>
    intro s c r hreset hp hc ht hr hs hroom hres
    refine ⟨_, exec_abandonment hreset hp hc ht hr, ?_⟩
    rw [State.endTransaction_frees hc hr hs, State.settleReservation_released hr rfl hres, State.freeRecord_eq,
      State.raise, NoticeQueue.raise_two, if_pos hroom]
    exact ⟨State.record_setRecord_same _ c.slot none, rfl, rfl⟩

end Sys2Proof.Machine

/-! The served bus: the address byte, the bytes of a write and of a read, the edges of SCL and the conditions (O34 to O43). -/

namespace Sys2Proof.Machine

variable {s : State} {c : Context} {r : Record} {b : Bank} {m : Mailbox} {i : Slot} {d : Direction} {v : Byte}

/-! ## The outcome of an address byte (R36) -/

theorem addressOutcome_of_quiesced (h : r.state = .quiesced) : addressOutcome r d = .nack := if_pos h

theorem addressOutcome_of_refused (hs : r.stale = true) (hp : r.stalePolicy = .refuse) : addressOutcome r d = .nack := by
  simp [addressOutcome, hs, hp]

theorem addressOutcome_of_no_inbound (hm : r.content = .mailbox m) (ha : m.acceptInbound = false) :
    addressOutcome r .write = .nack := by
  simp [addressOutcome, hm, ha]

/-- A LIVE record that is not refused as stale: its kind and the direction decide (rows 4 to 10 of R36). -/
structure Record.Answers (r : Record) : Prop where
  live : r.state = .live
  fresh : r.stale = false ∨ r.stalePolicy = .answer

section

variable (h : r.Answers)
include h

theorem Record.Answers.not_refused : ¬(r.stale && r.stalePolicy == .refuse) = true := by
  rcases h.fresh with hs | hs <;> simp [hs]

theorem Record.Answers.not_quiesced : ¬r.state = .quiesced := by
  rw [h.live]
  decide

theorem addressOutcome_bank_read (hb : r.content = .bank b) :
    addressOutcome r .read = if b.fetchOnRead then .fetch else .ack := by
  simp only [addressOutcome, if_neg h.not_quiesced, if_neg h.not_refused, hb]

theorem addressOutcome_bank_write (hb : r.content = .bank b) :
    addressOutcome r .write = if b.policy = .forward then .reserve else .ack := by
  simp only [addressOutcome, if_neg h.not_quiesced, if_neg h.not_refused, hb]
  cases b.policy <;> rfl

theorem addressOutcome_mailbox_read (hm : r.content = .mailbox m) : addressOutcome r .read = .ack := by
  simp only [addressOutcome, if_neg h.not_quiesced, if_neg h.not_refused, hm]

theorem addressOutcome_mailbox_write (hm : r.content = .mailbox m) :
    addressOutcome r .write = if m.acceptInbound then .reserve else .nack := by
  simp only [addressOutcome, if_neg h.not_quiesced, if_neg h.not_refused, hm]

end

/-! ## The answer by its outcome -/

section

variable {a : Address}

theorem State.answerAddress_of_none (h : resolve s.table a = none) : s.answerAddress a d = s.nackAddress := by
  simp only [State.answerAddress, h]

theorem State.answerAddress_of_nack (h : resolve s.table a = some (i, r)) (ho : addressOutcome r d = .nack) :
    s.answerAddress a d = s.nackAddress := by
  simp only [State.answerAddress, h, ho]

theorem State.answerAddress_of_ack (h : resolve s.table a = some (i, r)) (ho : addressOutcome r d = .ack) :
    s.answerAddress a d = s.ackAddress i r d false := by
  simp only [State.answerAddress, h, ho]

theorem State.answerAddress_of_reserve (h : resolve s.table a = some (i, r)) (ho : addressOutcome r d = .reserve) :
    s.answerAddress a d = if s.notices.canReserve then
        ({ s with notices := s.notices.reserve } : State).ackAddress i r d true
      else s.holdAddress i r d .space := by
  simp only [State.answerAddress, h, ho]

/-- A FETCH asks for an entry: the address is held with its notice queued, or NACKed with the overflow flag set. -/
theorem State.answerAddress_of_fetch {n : Notice} (h : resolve s.table a = some (i, r))
    (ho : addressOutcome r d = .fetch)
    (hn : n = { slot := i, tag := r.tag, body := .fetch (contentPointer r.content) }) :
    s.answerAddress a d = if s.notices.completed.length + s.notices.reservation.toNat < 32 then
        ({ s with notices := { s.notices with completed := s.notices.completed ++ [n] } } : State).holdAddress i r d .fetch
      else ({ s with notices := { s.notices with overflow := true } } : State).nackAddress := by
  subst hn
  have hroom : s.notices.hasRoom = decide (s.notices.completed.length + s.notices.reservation.toNat < 32) := rfl
  simp only [State.answerAddress, h, ho, State.raise, NoticeQueue.raise_eq, hroom]
  by_cases hlt : s.notices.completed.length + s.notices.reservation.toNat < 32 <;> simp [hlt]

end

theorem exec_addressByte (h : s.hardReset = false) (hp : s.engine.phase = .address) (hd : s.engine.detaching = false) :
    exec (.addressByte v) s = .next (s.answerAddress (v.extractLsb' 1 7) (busDirection v)) := by
  refine (exec_running h (.addressByte v)).trans (congrArg _ ?_)
  refine (if_pos hp).trans (if_neg ?_)
  rw [hd]
  decide

/-- Settles O34: rows 1, 2, 3 and 9 of R36, and the mark. -/
theorem anAddressIsRefused : Obligations.AnAddressIsRefused := by
  rintro s v a d h hp rfl rfl
  refine ⟨fun hd => ?_, fun hd hrefused => ?_⟩
  · exact (exec_running h (.addressByte v)).trans (congrArg _ ((if_pos hp).trans (if_pos hd)))
  · rw [exec_addressByte h hp hd]
    refine congrArg _ ?_
    rcases hrefused with hnone | ⟨i, r, hres, hq | ⟨hstale, hpolicy⟩ | ⟨m, hm, ha, hwrite⟩⟩
    · exact State.answerAddress_of_none hnone
    · exact State.answerAddress_of_nack hres (addressOutcome_of_quiesced hq)
    · exact State.answerAddress_of_nack hres (addressOutcome_of_refused hstale hpolicy)
    · rw [show busDirection v = .write from hwrite]
      exact State.answerAddress_of_nack hres (addressOutcome_of_no_inbound hm ha)

/-- Settles O35: rows 4, 6, 7, 8 and 10 of R36. -/
theorem anAddressIsAcknowledged : Obligations.AnAddressIsAcknowledged := by
  intro s v d i r h hp hd hdir hres hlive hfresh
  have hans : r.Answers := ⟨hlive, hfresh⟩
  have hexec : exec (.addressByte v) s = .next (s.answerAddress (v.extractLsb' 1 7) d) := by
    rw [hdir]
    exact exec_addressByte h hp hd
  refine ⟨fun b hb hcase => ?_, fun b hb hwrite hforward hcan => ?_, fun m hm hread => ?_, fun m hm hwrite ha hcan => ?_⟩
  · have ho : addressOutcome r d = .ack := by
      rcases hcase with ⟨rfl, hfetch⟩ | ⟨rfl, hpolicy⟩
      · rw [addressOutcome_bank_read hans hb, hfetch, if_neg Bool.false_ne_true]
      · rw [addressOutcome_bank_write hans hb, if_neg hpolicy]
    rw [hexec, State.answerAddress_of_ack hres ho, State.ackAddress, newContext, hb]
    cases d <;> rfl
  · subst hwrite
    have ho : addressOutcome r .write = .reserve := by rw [addressOutcome_bank_write hans hb, if_pos hforward]
    rw [hexec, State.answerAddress_of_reserve hres ho, if_pos hcan, State.ackAddress, newContext, hb]
    rfl
  · subst hread
    rw [hexec, State.answerAddress_of_ack hres (addressOutcome_mailbox_read hans hm), State.ackAddress, newContext, hm]
    rfl
  · subst hwrite
    have ho : addressOutcome r .write = .reserve := by rw [addressOutcome_mailbox_write hans hm, if_pos ha]
    rw [hexec, State.answerAddress_of_reserve hres ho, if_pos hcan, State.ackAddress, newContext, hm]
    rfl

/-- Settles O36: row 5 of R36 with an entry free and with none, and the writes that get no reservation. -/
theorem anAddressIsHeld : Obligations.AnAddressIsHeld := by
  intro s v i r h hp hd hres hlive hfresh
  have hans : r.Answers := ⟨hlive, hfresh⟩
  refine ⟨fun b hb hread hfetch => ?_, fun p hwrite hcan hcase => ?_⟩
  · have hdir : busDirection v = .read := if_pos hread
    have ho : addressOutcome r .read = .fetch := by rw [addressOutcome_bank_read hans hb, if_pos hfetch]
    refine ⟨fun hroom => ?_, fun hfull => ?_⟩
    · rw [exec_addressByte h hp hd, hdir, State.answerAddress_of_fetch hres ho rfl, if_pos hroom, State.holdAddress,
        newContext, hb]
      rfl
    · rw [exec_addressByte h hp hd, hdir, State.answerAddress_of_fetch hres ho rfl, if_neg (Nat.not_lt.2 hfull)]
      rfl
  · have hdir : busDirection v = .write := if_neg (by rw [hwrite]; decide)
    have ho : addressOutcome r .write = .reserve ∧ contentPointer r.content = p := by
      rcases hcase with ⟨b, hb, hforward, rfl⟩ | ⟨m, hm, ha, rfl⟩
      · exact ⟨by rw [addressOutcome_bank_write hans hb, if_pos hforward], by rw [hb]; rfl⟩
      · exact ⟨by rw [addressOutcome_mailbox_write hans hm, if_pos ha], by rw [hm]; rfl⟩
    rw [exec_addressByte h hp hd, hdir, State.answerAddress_of_reserve hres ho.1, hcan, if_neg Bool.false_ne_true,
      State.holdAddress, newContext, ho.2]

/-! ## The open transaction -/

section

variable {p : Phase}

theorem State.openBank_of_bank (hp : s.engine.phase = p) (hc : s.engine.ctx = some c) (hr : s.record c.slot = some r)
    (hb : r.content = .bank b) : s.openBank p = some (c, r, b) := by
  simp only [State.openBank, if_pos hp, hc, hr, hb]

theorem State.openBank_of_mailbox (hc : s.engine.ctx = some c) (hr : s.record c.slot = some r)
    (hm : r.content = .mailbox m) : s.openBank p = none := by
  simp only [State.openBank, hc, hr, hm, ite_self]

theorem State.openMailbox_of_mailbox (hp : s.engine.phase = p) (hc : s.engine.ctx = some c)
    (hr : s.record c.slot = some r) (hm : r.content = .mailbox m) : s.openMailbox p = some (c, r, m) := by
  simp only [State.openMailbox, if_pos hp, hc, hr, hm]

end

/-! ## The bytes of a write -/

/-- A byte refused in WRITE leaves the phase. -/
theorem State.nackByte_of_write (hp : s.engine.phase = .write) (c : Context) : s.nackByte c = { s with
    engine := { s.engine with ctx := some { c with refusing := true }, sda := .nack } } := by
  rw [State.nackByte, ← hp]

/-- A byte taken in WRITE leaves the phase. -/
theorem State.ackByte_of_write (hp : s.engine.phase = .write) (c : Context) : s.ackByte c = { s with
    engine := { s.engine with ctx := some c, sda := .ack .due } } := by
  rw [State.ackByte, ← hp]

/-- Settles O37: the pointer byte by the size. -/
theorem thePointerBytePlacesTheBusPointer : Obligations.ThePointerBytePlacesTheBusPointer := by
  intro s v c r b h hp hc hr hb
  have hbyte : s.pointerByte v = if v.toNat < b.size then
      (s.movePointer c.slot r b v.toNat).ackByte { c with startPointer := v.toNat } else s.nackByte c := by
    simp only [State.pointerByte, State.openBank_of_bank hp hc hr hb]
  exact ⟨fun hlt => (exec_running h _).trans (congrArg _ (hbyte.trans (if_pos hlt))),
    fun hle => (exec_running h _).trans (congrArg _ (hbyte.trans (if_neg (Nat.not_lt.2 hle))))⟩

section

variable (hp : s.engine.phase = .write) (hc : s.engine.ctx = some c) (hr : s.record c.slot = some r)
  (hb : r.content = .bank b)
include hp hc hr hb

theorem State.bankWriteByte_of_refused (h : c.refusing = true ∨ b.policy = .deny ∨ b.size ≤ b.pointer ∨
    (b.policy = .forward ∧ 32 ≤ c.collected.length)) : s.bankWriteByte v = s.nackByte c := by
  simp only [State.bankWriteByte, State.openBank_of_bank hp hc hr hb]
  by_cases hrefusing : c.refusing = true
  · exact if_pos hrefusing
  · rw [if_neg hrefusing]
    replace h := h.resolve_left hrefusing
    cases hpolicy : b.policy with
    | deny => rfl
    | apply =>
      have hend : b.size ≤ b.pointer := by simpa [hpolicy] using h
      exact if_neg (Nat.not_lt.2 hend)
    | forward =>
      have hend : b.size ≤ b.pointer ∨ 32 ≤ c.collected.length := by simpa [hpolicy] using h
      exact if_neg fun hroom => hend.elim (Nat.not_le.2 hroom.1) (Nat.not_le.2 hroom.2)

theorem State.bankWriteByte_of_apply (hn : c.refusing = false) (hpolicy : b.policy = .apply)
    (hlt : b.pointer < b.size) : s.bankWriteByte v =
      ((s.writeWindow b b.pointer [v]).movePointer c.slot r b (b.pointer + 1)).ackByte c := by
  simp only [State.bankWriteByte, State.openBank_of_bank hp hc hr hb, hn, hpolicy]
  exact if_pos hlt

theorem State.bankWriteByte_of_forward (hn : c.refusing = false) (hpolicy : b.policy = .forward)
    (hlt : b.pointer < b.size) (hroom : c.collected.length < 32) : s.bankWriteByte v =
      (s.movePointer c.slot r b (b.pointer + 1)).ackByte { c with collected := c.collected ++ [v] } := by
  simp only [State.bankWriteByte, State.openBank_of_bank hp hc hr hb, hpolicy]
  exact (if_neg (by simp [hn])).trans (if_pos (show b.pointer < b.size ∧ c.collected.length < 32 from ⟨hlt, hroom⟩))

end

/-- Settles O38: the byte by the write policy; under APPLY the store is one write of the window. -/
theorem aBankWriteByteFollowsTheWritePolicy : Obligations.ABankWriteByteFollowsTheWritePolicy := by
  intro s v c r b h hp hc hr hb
  have hexec := exec_running h (.bankWriteByte v)
  refine ⟨fun href => hexec.trans (congrArg _ ?_), fun hn hpolicy hlt hwf hranges hnodup => ?_,
    fun hn hpolicy hlt hroom => hexec.trans (congrArg _ ?_)⟩
  · exact (State.bankWriteByte_of_refused hp hc hr hb href).trans (State.nackByte_of_write hp c)
  · refine ⟨windowWrite s.store b.blocks b.pointer [v], hexec.trans (congrArg _ ?_), windowWrite_wf hwf _ _ _,
      fun p hlt' => ?_, fun a ha => memRead_windowWrite_other hwf b.blocks b.pointer [v] a fun k hk => ?_⟩
    · refine (State.bankWriteByte_of_apply hp hc hr hb hn hpolicy hlt).trans ?_
      refine (State.ackByte_of_write (s := (s.writeWindow b b.pointer [v]).movePointer c.slot r b (b.pointer + 1)) hp c).trans ?_
      rw [← hc]
      rfl
    · rw [windowByte_windowWrite hwf hnodup _ _ p (hranges.lt_of_lt_size hlt')]
      by_cases hpp : p = b.pointer
      · subst hpp
        simp
      · rw [if_neg hpp, if_neg]
        simp only [List.length_singleton]
        omega
    · obtain rfl : k = 0 := by simpa using hk
      exact ha
  · exact (State.bankWriteByte_of_forward hp hc hr hb hn hpolicy hlt hroom).trans
      (State.ackByte_of_write (s := s.movePointer c.slot r b (b.pointer + 1)) hp _)

/-- Settles O39: a byte is collected up to 32. -/
theorem aMailboxWriteByteIsCollectedUpTo32 : Obligations.AMailboxWriteByteIsCollectedUpTo32 := by
  intro s v c r m h hp hc hr hm
  have hbyte : s.mailboxWriteByte v = if (!c.refusing && decide (c.collected.length < 32)) = true then
      s.ackByte { c with collected := c.collected ++ [v] } else s.nackByte c := by
    simp only [State.mailboxWriteByte, State.openMailbox_of_mailbox hp hc hr hm]
  refine ⟨fun hn hroom => (exec_running h _).trans (congrArg _ (hbyte.trans ?_)),
    fun href => (exec_running h _).trans (congrArg _ (hbyte.trans ?_))⟩
  · rw [if_pos (by simp [hn, hroom]), State.ackByte_of_write hp]
  · rw [if_neg (by rcases href with hn | hfull <;> simp [*]), State.nackByte_of_write hp]

/-! ## The bytes of a read -/

theorem State.readByteDrive_of_bank (hp : s.engine.phase = .read) (hc : s.engine.ctx = some c)
    (hr : s.record c.slot = some r) (hb : r.content = .bank b) (hquiet : s.engine.sda.driving = false) :
    s.readByteDrive = s.driveBank c b := by
  simp only [State.readByteDrive, hquiet, State.openBank_of_bank hp hc hr hb, Bool.false_eq_true, if_false]

theorem State.readByteDrive_of_mailbox (hp : s.engine.phase = .read) (hc : s.engine.ctx = some c)
    (hr : s.record c.slot = some r) (hm : r.content = .mailbox m) (hquiet : s.engine.sda.driving = false) :
    s.readByteDrive = s.driveMailbox c m := by
  simp only [State.readByteDrive, hquiet, State.openBank_of_mailbox hc hr hm,
    State.openMailbox_of_mailbox hp hc hr hm, Bool.false_eq_true, if_false]

/-- A byte driven in the context as it stands changes SDA alone. -/
theorem State.drive_of_ctx (hc : s.engine.ctx = some c) (source : ReadSource) (value : Byte) :
    s.drive c source value = { s with engine := { s.engine with sda := .data source value 0 } } := by
  rw [State.drive, ← hc]

/-- Settles O40: the next byte by the kind of the endpoint and by what the read has served. -/
theorem theNextReadByteIsDriven : Obligations.TheNextReadByteIsDriven := by
  intro s c r h hp hc hr
  have hexec := exec_running h .readByteDrive
  refine ⟨fun hbusy => hexec.trans (congrArg _ (if_pos hbusy)), fun hquiet => ⟨fun b hb => ?_, ?mailbox⟩⟩
  · refine hexec.trans (congrArg _ ((State.readByteDrive_of_bank hp hc hr hb hquiet).trans ?_))
    rw [State.driveBank, State.drive_of_ctx hc, State.drive_of_ctx hc]
    split <;> rfl
  case mailbox =>
    have hdrive (m : Mailbox) (hm : r.content = .mailbox m) : exec .readByteDrive s = .next (s.driveMailbox c m) :=
      hexec.trans (congrArg _ (State.readByteDrive_of_mailbox hp hc hr hm hquiet))
    refine ⟨fun m hm hserved hqueue => ?_, fun m k rest hm hserved hqueue => ?_, fun m hm hserved => ?_,
      fun m k hm hserved => ?_⟩ <;> rw [hdrive m hm, State.driveMailbox, hserved]
    · simp only [hqueue]
      rfl
    · simp only [hqueue]
      rfl
    · exact congrArg _ (State.drive_of_ctx hc _ _)
    · simp only [State.drive_of_ctx hc]
      split <;> rfl

theorem State.readByteAcknowledge_of_data {source : ReadSource} {n : Nat} (hp : s.engine.phase = .read)
    (hsda : s.engine.sda = .data source v n) (ack : Bool) :
    s.readByteAcknowledge ack = (s.countDriven source).enterPhase (if ack then .read else .readEnd) := by
  simp only [State.readByteAcknowledge, if_pos hp, hsda]

/-- Settles O41: the acknowledge by the source of the byte. -/
theorem theAcknowledgeCountsTheReadByte : Obligations.TheAcknowledgeCountsTheReadByte := by
  rintro s ack c r v n p h hp hc hr rfl
  have hexec := exec_running h (.readByteAcknowledge ack)
  refine ⟨fun b hb hsda hlt => hexec.trans (congrArg _ ?_), fun hsda => hexec.trans (congrArg _ ?_),
    fun hsda => hexec.trans (congrArg _ ?_)⟩
  · have hcount : s.countDriven .window = s.movePointer c.slot r b (b.pointer + 1) := by
      simp only [State.countDriven, State.openBank_of_bank hp hc hr hb, if_pos hlt]
    refine (State.readByteAcknowledge_of_data hp hsda ack).trans ?_
    rw [hcount]
    rfl
  · have hcount : s.countDriven .message = { s with
        engine := { s.engine with ctx := some { c with headServed := c.headServed + 1 } } } := by
      simp only [State.countDriven, hc]
    refine (State.readByteAcknowledge_of_data hp hsda ack).trans ?_
    rw [hcount]
    rfl
  · rcases hsda with hsda | hsda <;> exact State.readByteAcknowledge_of_data hp hsda ack

/-! ## SCL -/

/-- What an edge does to SDA, told by what the part does on it (R68, R70). -/
theorem Sda.atEdge_eq {x y : Sda} {e : Edge}
    (h : (x = .ack .due ∧ y = if e = .falling then .ack .driven else .ack .due) ∨
      (x = .ack .driven ∧ y = if e = .rising then .ack .clocked else .ack .driven) ∨
      (x = .ack .clocked ∧ y = if e = .falling then .released else .ack .clocked) ∨
      ((x = .released ∨ x = .nack) ∧ y = x) ∨
      (∃ source v n, x = .data source v n ∧ y = .data source v
        (if n < 16 ∧ ((n % 2 = 0 ∧ e = .rising) ∨ (n % 2 = 1 ∧ e = .falling)) then n + 1 else n))) :
    x.atEdge e = y := by
  rcases h with ⟨rfl, rfl⟩ | ⟨rfl, rfl⟩ | ⟨rfl, rfl⟩ | ⟨rfl | rfl, rfl⟩ | ⟨source, v, n, rfl, rfl⟩
  · cases e <;> rfl
  · cases e <;> rfl
  · cases e <;> rfl
  · rfl
  · rfl
  · have hturn : (e = .rising ↔ n % 2 = 0) ↔ (n % 2 = 0 ∧ e = .rising) ∨ (n % 2 = 1 ∧ e = .falling) := by
      cases e <;> simp
    simp only [Sda.atEdge, bitEdge, hturn]

theorem holdEdge_eq (stretching : Bool) (e : Edge) : holdEdge stretching e = if e = .falling then true else stretching := by
  cases e <;> rfl

/-- The part pulls SDA low for an ACK that is driven and for a 0 bit of a read byte (R67). -/
theorem State.sdaDriven_iff : s.sdaDriven = true ↔
    s.engine.sda = .ack .driven ∨ s.engine.sda = .ack .clocked ∨
    ∃ source v n, s.engine.sda = .data source v n ∧ n < 16 ∧ v.getLsbD (7 - n / 2) = false := by
  unfold State.sdaDriven
  cases s.engine.sda with
  | released => simp
  | nack => simp
  | ack stage => cases stage <;> simp
  | data source v n => simp [zeroBitOnSda]

/-- Settles O42: the edge by the phase, and by what the part does on SDA. -/
theorem anSclEdgeRestartsTheStallTimer : Obligations.AnSclEdgeRestartsTheStallTimer := by
  refine ⟨fun s e x h hx => ⟨fun hopen => (exec_running h _).trans (congrArg _ ?_),
    fun hhold => (exec_running h _).trans (congrArg _ ?_),
    fun hclosed hne => (exec_running h _).trans (congrArg _ (State.sclEdge_of_unsupervised hclosed hne e))⟩,
    fun s => State.sdaDriven_iff, fun s => Iff.rfl⟩
  · refine (if_pos hopen).trans ?_
    rw [Sda.atEdge_eq hx]
    cases s.engine.stallTimer <;> rfl
  · have hclosed : ¬phaseSupervised s.engine.phase = true := by
      rw [hhold]
      decide
    refine (if_neg hclosed).trans ((if_pos hhold).trans ?_)
    rw [holdEdge_eq]

/-! ## Conditions -/

/-- Settles O43: START and STOP by the phase of the engine. -/
theorem conditionsMoveTheEngine : Obligations.ConditionsMoveTheEngine := by
  intro s h
  have hstart := exec_running h .startCondition
  have hstop := exec_running h .stopCondition
  refine ⟨fun hp => ⟨hstart.trans (congrArg _ ?_), hstop.trans (congrArg _ ?_)⟩, fun hp => hstart.trans (congrArg _ ?_),
    fun hp => hstop.trans (congrArg _ ?_), fun hp hd => hstop.trans (congrArg _ ?_),
    fun hp => ⟨exec_startCondition_of_pins h hp, exec_stopCondition_of_pins h hp⟩⟩
  · simp only [effectOf, State.startCondition, hp]
  · simp only [effectOf, State.stopCondition, hp]
  · rcases hp with hp | hp | hp | hp <;> simp only [effectOf, State.startCondition, hp] <;> rfl
  · rcases hp with hp | hp | hp | ⟨hp, hd⟩
    · simp only [effectOf, State.stopCondition, hp]
      rfl
    · simp only [effectOf, State.stopCondition, hp]
      rfl
    · simp only [effectOf, State.stopCondition, hp]
      rfl
    · simp only [effectOf, State.stopCondition, hp, hd, Bool.false_eq_true, if_false, State.enterPhase]
  · simp only [effectOf, State.stopCondition, hp, hd, if_true]

end Sys2Proof.Machine

/-! The management link: the line and the receiver (O25 to O27), the arbiter and the sent frame (O28, O29), and the
hardware reset (O30). -/

namespace Sys2Proof.Machine

variable {s : State} {v : Byte}

/-! ## Characters (R168) -/

/-- The number that eight levels stand for has those levels as its bits. -/
theorem testBit_foldr_bits (bits : List Bool) (k : Nat) :
    (bits.foldr (fun (b : Bool) n => b.toNat + 2 * n) 0).testBit k = bits.getD k false := by
  induction bits generalizing k with
  | nil => simp
  | cons b rest ih =>
    have hbit (n : Nat) : b.toNat + 2 * n = Nat.bit b n := by rw [Nat.bit_val, Nat.add_comm]
    rw [List.foldr_cons, hbit]
    cases k with
    | zero => simp
    | succ k => rw [Nat.testBit_bit_succ, ih, List.getD_cons_succ]

theorem getLsbD_bitsByte (bits : List Bool) {k : Nat} (hk : k < 8) : (bitsByte bits).getLsbD k = bits.getD k false := by
  rw [bitsByte, natByte, BitVec.getLsbD_ofNat, testBit_foldr_bits, decide_eq_true hk, Bool.true_and]

/-- Eight levels are read as a byte exactly when they are its bits. -/
theorem bitsByte_eq_iff {bits : List Bool} (hlen : bits.length = 8) :
    bitsByte bits = v ↔ bits = (List.range 8).map v.getLsbD := by
  constructor
  · rintro rfl
    refine List.ext_getElem (by simp [hlen]) fun k hk _ => ?_
    rw [List.getElem_map, List.getElem_range, getLsbD_bitsByte bits (hlen ▸ hk)]
    simp [hk]
  · rintro rfl
    refine BitVec.eq_of_getLsbD_eq fun k hk => ?_
    rw [getLsbD_bitsByte _ hk]
    simp [hk]

theorem charBits_eq (v : Byte) : charBits v =
    [false, v.getLsbD 0, v.getLsbD 1, v.getLsbD 2, v.getLsbD 3, v.getLsbD 4, v.getLsbD 5, v.getLsbD 6,
      v.getLsbD 7, true] := rfl

/-- Ten levels are read as a byte exactly when they are its character (R168). -/
theorem charOfBits_eq_some {bits : List Bool} : charOfBits bits = some v ↔ bits = charBits v := by
  unfold charOfBits
  split
  case h_1 start b0 b1 b2 b3 b4 b5 b6 b7 stop =>
    have hdata : bitsByte [b0, b1, b2, b3, b4, b5, b6, b7] = v ↔ _ := bitsByte_eq_iff rfl
    cases start <;> cases stop <;> simp [charBits_eq, hdata, List.range_succ]
  case h_2 hother =>
    refine ⟨nofun, fun h => ?_⟩
    exact absurd (h.trans (charBits_eq v)) (hother _ _ _ _ _ _ _ _ _ _)

/-- The levels of a run of characters, bit period by bit period. -/
theorem getD_flatMap_charBits (bytes : List Byte) {k j : Nat} (hk : k < bytes.length) (hj : j < 10) :
    (bytes.flatMap charBits).getD (10 * k + j) true = (charBits (bytes.getD k 0)).getD j true := by
  induction bytes generalizing k with
  | nil => cases hk
  | cons b rest ih =>
    rw [List.flatMap_cons]
    cases k with
    | zero => rw [Nat.mul_zero, Nat.zero_add, List.getD_append _ _ _ _ (by simpa using hj), List.getD_cons_zero]
    | succ k =>
      rw [List.getD_append_right _ _ _ _ (by rw [charBits_length]; omega), charBits_length,
        show 10 * (k + 1) + j - 10 = 10 * k + j by omega, ih (Nat.lt_of_succ_lt_succ hk), List.getD_cons_succ]

theorem State.ltxHigh_of_sending {x : Sending} {bytes : List Byte} (hx : s.link.sending = some x)
    (hbytes : s.ltxBytes = some bytes) (k : Nat) : s.ltxHigh k = (bytes.flatMap charBits).getD k true := by
  rw [State.ltxBytes, hx] at hbytes
  obtain rfl := Option.some.inj hbytes
  simp only [State.ltxHigh, hx]
  rfl

/-! ## The Link Receiver (R170 to R173) -/

theorem State.huntCharacter_eq (s : State) (v : Byte) :
    s.huntCharacter v = s.setReceiver (if v = 0xB7 then .frameLen else .hunt) := by
  unfold State.huntCharacter
  split <;> rfl

theorem State.takeCharacter_of_hunt (h : s.link.receiver = .hunt) :
    s.takeCharacter v = s.setReceiver (if v = 0xB7 then .frameLen else .hunt) := by
  simp only [State.takeCharacter, h, State.huntCharacter_eq]

theorem State.takeCharacter_of_frameLen (h : s.link.receiver = .frameLen) :
    s.takeCharacter v = s.setReceiver (if 2 ≤ v.toNat ∧ v.toNat ≤ 60 then .frameBody v.toNat []
      else if v = 0xB7 then .frameLen else .hunt) := by
  simp only [State.takeCharacter, h, State.huntCharacter_eq, Bool.and_eq_true, decide_eq_true_eq]
  split <;> rfl

section

variable {len : Nat} {got : List Byte} (h : s.link.receiver = .frameBody len got)
include h

theorem State.takeCharacter_of_body (hlt : got.length < len) :
    s.takeCharacter v = s.setReceiver (.frameBody len (got ++ [v])) := by
  simp only [State.takeCharacter, h, if_pos hlt]

theorem State.takeCharacter_of_crc (hlen : got.length = len) : s.takeCharacter v = s.endFrame len got v := by
  simp only [State.takeCharacter, h, if_neg (Nat.not_lt.2 hlen.ge)]

theorem State.takeCrc_of_crc (hlen : got.length = len) : s.takeCrc v = s.endFrame len got v := by
  simp only [State.takeCrc, h, if_neg (Nat.not_lt.2 hlen.ge)]

end

theorem State.takeCharacter_of_lineBreak (h : s.link.receiver = .lineBreak) : s.takeCharacter v = s := by
  simp only [State.takeCharacter, h]

section

variable {len : Nat} {got : List Byte}

theorem State.endFrame_of_mismatch (h : crcOf (natByte len :: got) ≠ v) :
    s.endFrame len got v = { s with
      link := { s.link with receiver := .hunt }
      counters := { s.counters with crc := if s.counters.crc = 0xFFFF then 0xFFFF else s.counters.crc + 1 } } := by
  rw [State.endFrame, if_neg (by simpa using h), countUp_eq]
  rfl

theorem State.endFrame_of_room (h : crcOf (natByte len :: got) = v) (hroom : s.link.inbox.length < 4) :
    s.endFrame len got v = { s with
      link := { s.link with receiver := .hunt, inbox := s.link.inbox ++ [frameOf got] } } := by
  rw [State.endFrame, if_pos (by simpa using h)]
  exact if_pos hroom

theorem State.endFrame_of_overrun (h : crcOf (natByte len :: got) = v) (hfull : 4 ≤ s.link.inbox.length) :
    s.endFrame len got v = { s with
      link := { s.link with receiver := .hunt }
      counters := { s.counters with
        overrun := if s.counters.overrun = 0xFFFF then 0xFFFF else s.counters.overrun + 1 } } := by
  rw [State.endFrame, if_pos (by simpa using h), ← countUp_eq]
  exact if_neg (Nat.not_lt.2 hfull)

end

/-- Settles O25: the character by the receiver's state, and the end of a frame by its CRC and the inbox. -/
theorem theReceiverTakesCharactersAndEndsFrames : Obligations.TheReceiverTakesCharactersAndEndsFrames := by
  refine ⟨fun s v h => ?_, fun s v len got h hbody hlen => ?_⟩
  · have hexec := exec_running h (.characterReceived v)
    exact ⟨fun hr => hexec.trans (congrArg _ (State.takeCharacter_of_hunt hr)),
      fun hr => hexec.trans (congrArg _ (State.takeCharacter_of_frameLen hr)),
      fun len got hr hlt => hexec.trans (congrArg _ (State.takeCharacter_of_body hr hlt)),
      fun hr => hexec.trans (congrArg _ (State.takeCharacter_of_lineBreak hr))⟩
  · have hexec : exec (.frameReceived v) s = .next (s.endFrame len got v) :=
      (exec_running h (.frameReceived v)).trans (congrArg _ (State.takeCrc_of_crc hbody hlen))
    refine ⟨?_, fun hcrc => hexec.trans (congrArg _ (State.endFrame_of_mismatch hcrc)),
      fun hcrc hroom => hexec.trans (congrArg _ (State.endFrame_of_room hcrc hroom)),
      fun hcrc hfull => hexec.trans (congrArg _ (State.endFrame_of_overrun hcrc hfull))⟩
    rw [hexec]
    exact (exec_running h (.characterReceived v)).trans (congrArg _ (State.takeCharacter_of_crc hbody hlen))

/-- The bytes of a frame up to its last are kept one after the other. -/
theorem foldl_takeCharacter_of_body {len : Nat} {got : List Byte} (bytes : List Byte)
    (h : s.link.receiver = .frameBody len got) (hlen : got.length + bytes.length ≤ len) :
    bytes.foldl State.takeCharacter s = s.setReceiver (.frameBody len (got ++ bytes)) := by
  induction bytes generalizing s got with
  | nil =>
    rw [List.foldl_nil, List.append_nil, State.setReceiver, ← h]
  | cons v rest ih =>
    rw [List.length_cons] at hlen
    have hstep := State.takeCharacter_of_body (v := v) h (by omega)
    rw [List.foldl_cons, hstep, ih (got := got ++ [v]) rfl (by simp; omega), List.append_assoc]
    rfl

/-- What the part sends, a hunting receiver takes whole (R170 to R173, R186). -/
theorem foldl_takeCharacter_frameWire {f : Frame} (h : s.link.receiver = .hunt) (hlen : f.payload.length ≤ 58)
    (hroom : s.link.inbox.length < 4) : (frameWire f).foldl State.takeCharacter s =
      { s with link := { s.link with inbox := s.link.inbox ++ [f] } } := by
  have hlength : (frameLength f).toNat = f.payload.length + 2 := by
    rw [frameLength, natByte, BitVec.toNat_ofNat]
    omega
  have hsync : s.takeCharacter Config.syncByte = s.setReceiver .frameLen := State.takeCharacter_of_hunt h
  have hlenByte : (s.setReceiver .frameLen).takeCharacter (frameLength f) =
      s.setReceiver (.frameBody (f.payload.length + 2) []) := by
    rw [State.takeCharacter_of_frameLen rfl, if_pos (by omega), hlength]
    rfl
  have hbody : (f.seq :: f.code :: f.payload).foldl State.takeCharacter
      (s.setReceiver (.frameBody (f.payload.length + 2) [])) =
      s.setReceiver (.frameBody (f.payload.length + 2) (f.seq :: f.code :: f.payload)) :=
    foldl_takeCharacter_of_body (s := s.setReceiver _) _ rfl (by simp)
  have hcrc : (s.setReceiver (.frameBody (f.payload.length + 2) (f.seq :: f.code :: f.payload))).takeCharacter
      (crcOf (frameBody f)) = { s with link := { s.link with inbox := s.link.inbox ++ [f] } } := by
    refine (State.takeCharacter_of_crc (len := f.payload.length + 2) (got := f.seq :: f.code :: f.payload)
      (by rfl) (by rfl)).trans ((State.endFrame_of_room (by rfl) hroom).trans ?_)
    rw [← h]
    rfl
  rw [frameWire, frameBody, List.cons_append, List.foldl_cons, hsync, List.cons_append, List.foldl_cons, hlenByte,
    List.foldl_append, hbody]
  exact hcrc

/-- Settles O26: the character, the levels of LTX, and the round trip of a frame. -/
theorem aFrameOnTheLineIsReceivedWhole : Obligations.AFrameOnTheLineIsReceivedWhole := by
  refine ⟨charBits_eq, fun bits v => charOfBits_eq_some, fun s k hidle => ?_, fun s x bytes hx hbytes => ⟨fun k j hk hj => ?_,
    fun k hk => ?_⟩, fun s f h hlen hroom => foldl_takeCharacter_frameWire h hlen hroom⟩
  · simp only [State.ltxHigh, hidle]
  · rw [State.ltxHigh_of_sending hx hbytes, getD_flatMap_charBits bytes hk hj]
  · rw [State.ltxHigh_of_sending hx hbytes]
    exact List.getD_eq_default _ _ (by rwa [flatMap_charBits_length])

end Sys2Proof.Machine

/-! The Link Transmitter (O28, O29), the errors of the line and the break (O27), and the hardware reset (O30). -/

namespace Sys2Proof.Machine

variable {s : State} {v : Byte}

/-! ## Notice frames (R191) -/

theorem noticeFlags_eq (overflow : Bool) (n : Notice) :
    noticeFlags overflow n = (if overflow then 1 else 0) + (if n.tag.isSome then 2 else 0) := by
  rw [noticeFlags]
  cases overflow <;> cases n.tag.isSome <;> rfl

/-- The low byte of a number of 16 bits, then the high one. -/
theorem natBytes_eq (n : Nat) : natBytes n = [BitVec.ofNat 8 n, BitVec.ofNat 8 (n / 256)] := by
  have hlow : (BitVec.ofNat 16 n).extractLsb' 0 8 = BitVec.ofNat 8 n := by
    apply BitVec.eq_of_toNat_eq
    simp
  have hhigh : (BitVec.ofNat 16 n).extractLsb' 8 8 = BitVec.ofNat 8 (n / 256) := by
    apply BitVec.eq_of_toNat_eq
    simp [Nat.shiftRight_eq_div_pow]
    omega
  rw [natBytes, wordBytes, hlow, hhigh]

/-! ## The arbiter (R178) -/

section

variable (hidle : s.link.sending = none)
include hidle

theorem State.arbitrate_of_hello {cause : HelloCause} (h : s.link.hello = some cause)
    (hr : s.link.receiver ≠ .lineBreak) : s.arbitrate = s.send (.hello (helloFrame cause)) := by
  simp only [State.arbitrate, hidle, h, if_neg hr]

theorem State.arbitrate_of_queued (h : s.link.hello = none ∨ s.link.receiver = .lineBreak) :
    s.arbitrate = s.startQueued := by
  cases hello : s.link.hello with
  | none => simp only [State.arbitrate, hidle, hello]
  | some cause =>
    rw [hello] at h
    simp only [State.arbitrate, hidle, hello, if_pos (h.resolve_left nofun)]

end

theorem State.arbitrate_of_busy (h : s.link.sending ≠ none) : s.arbitrate = s := by
  obtain ⟨x, hx⟩ := Option.ne_none_iff_exists'.1 h
  simp only [State.arbitrate, hx]

theorem State.startQueued_of_response {f : Frame} {rest : List Frame} (h : s.link.responses = f :: rest) :
    s.startQueued = s.send (.response f) := by
  simp only [State.startQueued, h]

theorem State.startQueued_of_notice {n : Notice} {rest : List Notice} (h : s.link.responses = [])
    (hn : s.notices.completed = n :: rest) (hc : 1 ≤ s.notices.credit) : s.startQueued = s.startNotice n := by
  simp only [State.startQueued, h, hn, if_pos hc]

theorem State.startQueued_of_nothing (h : s.link.responses = [])
    (hn : s.notices.completed = [] ∨ s.notices.credit = 0) : s.startQueued = s := by
  cases hq : s.notices.completed with
  | nil => simp only [State.startQueued, h, hq]
  | cons n rest =>
    rw [hq] at hn
    have hzero : ¬1 ≤ s.notices.credit := by
      rw [hn.resolve_left nofun]
      decide
    simp only [State.startQueued, h, hq, if_neg hzero]

/-- Settles O28: the layout of a notice's frame by its kind, and the arbiter by what waits. -/
theorem frameStartFollowsTheOrderOfPreference : Obligations.FrameStartFollowsTheOrderOfPreference := by
  refine ⟨fun seq overflow i tag body code fields h => ?layout, fun s h => ⟨fun hbusy => ?_, fun hidle => ⟨?_, ?_⟩⟩⟩
  case layout =>
    have hbody : noticeCode body = code ∧ noticeFields body = fields := by
      rcases h with ⟨start, data, rfl, rfl, rfl⟩ | ⟨data, rfl, rfl, rfl⟩ | ⟨p, rfl, rfl, rfl⟩ | ⟨rfl, rfl, rfl⟩ |
        ⟨rfl, rfl, rfl⟩ | ⟨rfl, rfl, rfl⟩ | ⟨rfl, rfl, rfl⟩ | ⟨rfl, rfl, rfl⟩ | ⟨rfl, rfl, rfl⟩ | ⟨rfl, rfl, rfl⟩ |
        ⟨rfl, rfl, rfl⟩
      case inr.inr.inl => exact ⟨rfl, natBytes_eq p⟩
      all_goals exact ⟨rfl, rfl⟩
    obtain ⟨rfl, rfl⟩ := hbody
    rw [noticeFrame, noticeFlags_eq]
    cases tag with
    | none => rw [show wordBytes (tagField none) = [0, 0] by decide]; rfl
    | some w => rfl
  · exact (exec_running h .frameStart).trans (congrArg _ (State.arbitrate_of_busy hbusy))
  · intro cause hello hr
    exact (exec_running h .frameStart).trans (congrArg _ (State.arbitrate_of_hello hidle hello hr))
  · intro hwithheld
    have hexec : exec .frameStart s = .next s.startQueued :=
      (exec_running h .frameStart).trans (congrArg _ (State.arbitrate_of_queued hidle hwithheld))
    exact ⟨fun f rest hf => hexec.trans (congrArg _ (State.startQueued_of_response hf)),
      fun hempty => ⟨fun n rest hn hc => hexec.trans (congrArg _ (State.startQueued_of_notice hempty hn hc)),
        fun hn => hexec.trans (congrArg _ (State.startQueued_of_nothing hempty hn))⟩⟩

/-! ## A frame sent (R145, R126) -/

/-- No SPACE hold is granted. -/
theorem State.grantSpace_of_shut (h : s.engine.phase ≠ .hold ∨
    (∀ c, s.engine.ctx = some c → c.holdReason ≠ some .space) ∨ s.notices.canReserve = false) : s.grantSpace = s := by
  rcases s.grantSpace_cases with he | ⟨c, r, hc, -, hp, hspace, hcan, -⟩
  · exact he
  · rcases h with h | h | h
    · exact absurd hp h
    · exact absurd hspace (h c hc)
    · exact absurd (hcan.symm.trans h) nofun

theorem State.grantSpace_of_open {c : Context} {r : Record} (hp : s.engine.phase = .hold) (hc : s.engine.ctx = some c)
    (hspace : c.holdReason = some .space) (hr : s.record c.slot = some r) (hcan : s.notices.canReserve = true) :
    s.grantSpace = ({ s with notices := s.notices.reserve } : State).endHoldWithAck { c with reserved := true }
      (ackPhase r.content .write) := by
  simp only [State.grantSpace, hc, hr]
  exact if_pos (by simp [hp, hspace, hcan])

/-- The state with the sent notice gone, before the grant of a SPACE hold (R145). -/
def State.noticeGone (s : State) (rest : List Notice) : State := { s with
  link := { s.link with sending := none }
  notices := { s.notices with completed := rest, seq := s.notices.seq + 1 } }

/-- The state after the grant of its SPACE hold to the context `c` of the record `r` (R126). -/
def State.granted (s : State) (c : Context) (r : Record) : State := { s with
  notices := { s.notices with reservation := true }
  engine := { s.engine with
    phase := ackPhase r.content .write
    ctx := some { c with holdReason := none, reserved := true }
    holdTimer := none
    stallTimer := some s.stallLimit
    stretching := false
    sda := .ack (if s.engine.stretching then .driven else .due) } }

section

variable {g : Frame} {o : Bool} {n : Notice} {rest : List Notice}

theorem State.releaseSent_notice (hn : s.notices.completed = n :: rest) :
    s.lineIdle.releaseSent (.notice g o) = (s.noticeGone rest).grantSpace := by
  have htail : s.notices.completed.tail = rest := by rw [hn, List.tail_cons]
  subst htail
  rfl

/-- With the reservation free, the reservation of a hold fits exactly while both occupancies leave room (R136). -/
theorem State.noticeGone_canReserve : (s.noticeGone rest).notices.canReserve = true ↔
    s.notices.reservation = false ∧ rest.countP Notice.isData < 24 ∧ rest.length < 32 := by
  have hiff := (s.noticeGone rest).notices.canReserve_iff
  rw [hiff]
  refine and_congr_right fun (hfree : s.notices.reservation = false) => ?_
  simp only [NoticeQueue.dataTotal, NoticeQueue.total, State.noticeGone, hfree, Bool.toNat_false, Nat.add_zero]

theorem State.grantSpace_noticeGone_of_shut (h : s.engine.phase ≠ .hold ∨
    (∀ c, s.engine.ctx = some c → c.holdReason ≠ some .space) ∨ s.notices.reservation = true ∨
      24 ≤ rest.countP Notice.isData ∨ 32 ≤ rest.length) : (s.noticeGone rest).grantSpace = s.noticeGone rest := by
  refine State.grantSpace_of_shut (h.imp_right (Or.imp_right fun hfull => ?_))
  rw [← Bool.not_eq_true, State.noticeGone_canReserve]
  rintro ⟨hfree, hdata, hlen⟩
  rcases hfull with hres | hfull | hfull
  · exact absurd (hfree.symm.trans hres) nofun
  · omega
  · omega

theorem State.grantSpace_noticeGone_of_open {c : Context} {r : Record} (hp : s.engine.phase = .hold)
    (hc : s.engine.ctx = some c) (hspace : c.holdReason = some .space) (hr : s.record c.slot = some r)
    (hfree : s.notices.reservation = false) (hdata : rest.countP Notice.isData < 24) (hlen : rest.length < 32) :
    (s.noticeGone rest).grantSpace = (s.noticeGone rest).granted c r :=
  State.grantSpace_of_open (s := s.noticeGone rest) hp hc hspace hr (State.noticeGone_canReserve.2 ⟨hfree, hdata, hlen⟩)

end

theorem exec_frameSent (h : s.hardReset = false) {x : Sending} (hx : s.link.sending = some x) :
    exec .frameSent s = .next (s.lineIdle.releaseSent x).arbitrate :=
  (exec_running h .frameSent).trans (congrArg _ (State.frameSent_some hx))

/-- The release and the arbiter's decision are one event: the frame start of the state released (log 5). -/
theorem exec_frameSent_of_release (h : s.hardReset = false) {x : Sending} {t : State} (hx : s.link.sending = some x)
    (hrelease : s.lineIdle.releaseSent x = t) : exec .frameSent s = exec .frameStart t := by
  have ht : t.hardReset = false := by
    rw [← hrelease, State.releaseSent_frame]
    exact h
  rw [exec_frameSent h hx, hrelease]
  exact (exec_running ht .frameStart).symm

/-- With neither a HELLO nor a response waiting and no credit, nothing starts. -/
theorem exec_frameStart_of_nothing (h : s.hardReset = false) (hidle : s.link.sending = none) (hello : s.link.hello = none)
    (hresponses : s.link.responses = []) (hcredit : s.notices.credit = 0) : exec .frameStart s = .next s := by
  refine (exec_running h .frameStart).trans (congrArg _ ?_)
  exact (State.arbitrate_of_queued hidle (Or.inl hello)).trans (State.startQueued_of_nothing hresponses (Or.inr hcredit))

/-- Settles O29: the source's release, the grant of a SPACE hold, and then the arbiter. -/
theorem aSentFrameIsReleasedByItsSource : Obligations.ASentFrameIsReleasedByItsSource := by
  refine ⟨fun s h => ⟨fun hidle => ?_, fun f hx => exec_frameSent_of_release h hx rfl,
      fun f g rest hx hrest => exec_frameSent_of_release h hx ?_, fun g o n rest hx hn => ⟨fun hshut => ?_,
        fun c r hp hc hspace hr hfree hdata hlen => ?_⟩⟩,
    fun s f h hcredit => ⟨fun hx hempty => ?_, fun hx hone hello => ?_, fun g hx htwo hello => ?_⟩,
    fun s g o n rest h hx hn hello hempty hcredit => ⟨fun hp => ?_, fun c r hp hc hspace hr hfree =>
      ⟨fun ⟨hdata, hlen⟩ => ?_, fun hfull => ?_⟩⟩⟩
  · refine (exec_running h .frameSent).trans (congrArg _ ?_)
    simp only [effectOf, State.frameSent, hidle]
  · simp only [State.releaseSent, State.lineIdle, hrest, List.tail_cons]
  · exact exec_frameSent_of_release h hx
      ((State.releaseSent_notice hn).trans (State.grantSpace_noticeGone_of_shut hshut))
  · refine (exec_frameSent_of_release h hx ((State.releaseSent_notice hn).trans
      (State.grantSpace_noticeGone_of_open hp hc hspace hr hfree hdata hlen))).trans ?_
    cases hcontent : r.content <;> simp only [State.granted, hcontent] <;> rfl
  · exact (exec_frameSent_of_release h hx (by rfl)).trans (exec_frameStart_of_nothing h rfl rfl hempty hcredit)
  · have hrelease : s.lineIdle.releaseSent (.response f) =
        { s with link := { s.link with sending := none, responses := [] } } := by
      simp only [State.releaseSent, State.lineIdle, hone, List.tail_cons]
    exact (exec_frameSent_of_release h hx hrelease).trans (exec_frameStart_of_nothing h rfl hello rfl hcredit)
  · have hrelease : s.lineIdle.releaseSent (.response f) =
        { s with link := { s.link with sending := none, responses := [g] } } := by
      simp only [State.releaseSent, State.lineIdle, htwo, List.tail_cons]
    refine (exec_frameSent h hx).trans (congrArg _ ?_)
    rw [hrelease]
    refine (State.arbitrate_of_queued (by rfl) (Or.inl ?_)).trans
      (State.startQueued_of_response (f := g) (rest := []) (by rfl))
    exact hello
  · refine (exec_frameSent_of_release h hx ((State.releaseSent_notice hn).trans
      (State.grantSpace_noticeGone_of_shut (Or.inl hp)))).trans ?_
    exact exec_frameStart_of_nothing (s := s.noticeGone rest) h rfl hello hempty hcredit
  · refine (exec_frameSent_of_release h hx ((State.releaseSent_notice hn).trans
      (State.grantSpace_noticeGone_of_open hp hc hspace hr hfree hdata hlen))).trans ?_
    refine (exec_frameStart_of_nothing (s := (s.noticeGone rest).granted c r) h rfl hello hempty hcredit).trans ?_
    cases hcontent : r.content <;> simp only [State.granted, hcontent] <;> rfl
  · refine (exec_frameSent_of_release h hx ((State.releaseSent_notice hn).trans
      (State.grantSpace_noticeGone_of_shut (Or.inr (Or.inr (Or.inr hfull)))))).trans ?_
    exact exec_frameStart_of_nothing (s := s.noticeGone rest) h rfl hello hempty hcredit

/-! ## The errors of the line and the break -/

theorem State.gapTimeout_of_frame (h : s.link.receiver = .frameLen ∨ ∃ len got, s.link.receiver = .frameBody len got) :
    s.gapTimeout = { s.setReceiver .hunt with counters := { s.counters with gap := countUp s.counters.gap } } := by
  rcases h with h | ⟨len, got, h⟩ <;> simp only [State.gapTimeout, h]

/-- Settles O27: the errors and the break by the receiver's state; the flag of a cut notice frame by what is on LTX. -/
theorem lineErrorsAndTheBreak : Obligations.LineErrorsAndTheBreak := by
  refine ⟨fun s h => ⟨fun hr => ?_, fun hr => ?_⟩, fun s h => ⟨fun hr => ?_, fun hr => ?_, fun hr => ?_⟩⟩
  · refine (exec_running h .framingError).trans (congrArg _ ((if_neg hr).trans ?_))
    rw [countUp_eq]
    rfl
  · refine (exec_running h .gapTimeout).trans (congrArg _ ((State.gapTimeout_of_frame hr).trans ?_))
    rw [countUp_eq]
    rfl
  · have hcut : (s.notices.overflow || cutOverflow s.link.sending) = match s.link.sending with
        | some (.notice _ true) => true
        | _ => s.notices.overflow := by
      rcases s.link.sending with _ | _ | _ | ⟨f, o⟩
      · exact Bool.or_false _
      · exact Bool.or_false _
      · exact Bool.or_false _
      · cases o
        · exact Bool.or_false _
        · exact Bool.or_true _
    refine (exec_running h .linkReset).trans (congrArg _ ((if_neg hr).trans ?_))
    rw [hcut]
    rfl
  · exact (exec_running h .linkReset).trans (congrArg _ (if_pos hr))
  · exact (exec_running h .breakEnd).trans (congrArg _ (if_pos hr))

/-! ## The hardware reset -/

theorem isResetEvent_eq_false {i : Instr} (hfall : i ≠ .hardwareReset) (hrise : ∀ a b l, i ≠ .hardwareResetEnd a b l) :
    isResetEvent i = false := by
  cases i
  case hardwareReset => exact absurd rfl hfall
  case hardwareResetEnd a b l => exact absurd rfl (hrise a b l)
  all_goals rfl

theorem strapBaud_eq (bsel1 bsel0 : Bool) : strapBaud bsel1 bsel0 =
    if bsel1 then (if bsel0 then .b921600 else .b460800) else (if bsel0 then .b230400 else .b115200) := by
  cases bsel1 <;> cases bsel0 <;> rfl

/-- Settles O30: the fall of RSTn, its rise, and everything else in between. -/
theorem theHardwareResetClearsThePart : Obligations.TheHardwareResetClearsThePart := by
  refine ⟨fun s => rfl, fun s bsel1 bsel0 lrxHigh h => ?_, fun s i h hfall hrise => ?_⟩
  · refine congrArg Host.Outcome.next ((if_pos h).trans ?_)
    rw [strapBaud_eq]
    rfl
  · rw [exec_eq, isResetEvent_eq_false hfall hrise, h]
    rfl

end Sys2Proof.Machine

/-! The Address Resolver (O32, O33), the freshness count (O50), and the laws at reset (O51). -/

namespace Sys2Proof.Machine

variable {s : State} {r : Record} {i : Slot}

/-! ## The size of an address set (R28) -/

/-- The lowest `n` bits of `k` are those of `a` wherever `m` does not mark. -/
def agreesBelow (m a : Nat → Bool) (n k : Nat) : Bool := (List.range n).all fun j => m j || k.testBit j == a j

theorem agreesBelow_iff {m a : Nat → Bool} {n k : Nat} :
    agreesBelow m a n k = true ↔ ∀ j, j < n → m j = false → k.testBit j = a j := by
  simp only [agreesBelow, List.all_eq_true, List.mem_range, Bool.or_eq_true, beq_iff_eq]
  refine forall₂_congr fun j _ => ?_
  cases m j <;> simp

theorem agreesBelow_succ (m a : Nat → Bool) (n k : Nat) :
    agreesBelow m a (n + 1) k = (agreesBelow m a n k && (m n || k.testBit n == a n)) := by
  simp [agreesBelow, List.range_succ]

/-- With the bit `n` clear, or set, the lower ones count. -/
theorem agreesBelow_succ_of_lt {m a : Nat → Bool} {n k : Nat} (h : k < 2 ^ n) :
    agreesBelow m a (n + 1) k = (agreesBelow m a n k && (m n || !a n)) ∧
      agreesBelow m a (n + 1) (2 ^ n + k) = (agreesBelow m a n k && (m n || a n)) := by
  have hlow : agreesBelow m a n (2 ^ n + k) = agreesBelow m a n k := by
    rw [Bool.eq_iff_iff, agreesBelow_iff, agreesBelow_iff]
    refine forall₂_congr fun j hj => ?_
    rw [Nat.testBit_two_pow_add_gt hj]
  have hclear : k.testBit n = false := Nat.testBit_lt_two_pow h
  have hset : (2 ^ n + k).testBit n = true := by rw [Nat.testBit_two_pow_add_eq, hclear, Bool.not_false]
  rw [agreesBelow_succ, agreesBelow_succ, hlow, hclear, hset]
  cases a n <;> exact ⟨rfl, rfl⟩

theorem countP_and_const {α : Type} (p : α → Bool) (b : Bool) (l : List α) :
    l.countP (fun x => p x && b) = if b then l.countP p else 0 := by
  cases b <;> simp

/-- Each marked bit doubles the count, by induction on the number of bits. -/
theorem countP_agreesBelow (m a : Nat → Bool) (n : Nat) :
    (List.range (2 ^ n)).countP (agreesBelow m a n) = 2 ^ (List.range n).countP m := by
  induction n with
  | zero => rfl
  | succ n ih =>
    have hclear : (List.range (2 ^ n)).countP (agreesBelow m a (n + 1)) =
        if (m n || !a n) = true then 2 ^ (List.range n).countP m else 0 := by
      rw [← ih, ← countP_and_const]
      exact List.countP_congr fun k hk => by rw [(agreesBelow_succ_of_lt (List.mem_range.1 hk)).1]
    have hset : (List.range (2 ^ n)).countP (agreesBelow m a (n + 1) ∘ (2 ^ n + ·)) =
        if (m n || a n) = true then 2 ^ (List.range n).countP m else 0 := by
      rw [← ih, ← countP_and_const]
      refine List.countP_congr fun k hk => ?_
      rw [Function.comp_apply, (agreesBelow_succ_of_lt (List.mem_range.1 hk)).2]
    rw [Nat.pow_succ, Nat.mul_two, List.range_add, List.countP_append, List.countP_map, hclear, hset, List.range_succ,
      List.countP_append]
    cases hm : m n with
    | true => simp [hm, Nat.pow_succ, Nat.mul_two]
    | false => cases a n <;> simp [hm]

theorem inAddressSet_ofNat (address mask : Address) (k : Nat) :
    inAddressSet address mask (BitVec.ofNat 7 k) = agreesBelow mask.getLsbD address.getLsbD 7 k := by
  rw [Bool.eq_iff_iff, inAddressSet_iff, agreesBelow_iff]
  refine forall₂_congr fun j hj => ?_
  rw [BitVec.getLsbD_ofNat, decide_eq_true hj, Bool.true_and]

/-- Settles O32: the members are the numbers that agree with the address on the unmarked bits. -/
theorem anAddressSetHasTwoToTheMaskBitsMembers : Obligations.AnAddressSetHasTwoToTheMaskBitsMembers := by
  intro address mask
  simp only [inAddressSet_ofNat]
  exact countP_agreesBelow mask.getLsbD address.getLsbD 7

/-! ## The resolving endpoint (R34, R35) -/

/-- No candidate among the slots listed is more specific than the best one. -/
theorem specificity_le_of_bestCandidate {table : Vector (Option Record) 48} {a : Address} {slots : List Slot}
    (h : bestCandidate table a slots = some (i, r)) {j : Slot} (hj : j ∈ slots) {q : Record}
    (hq : table[j.val]'j.isLt = some q) (hc : isCandidate a q = true) : specificity q.mask ≤ specificity r.mask := by
  induction slots generalizing i r with
  | nil => cases hj
  | cons k rest ih =>
    have hrest (hbest : bestCandidate table a rest = none) : j ∉ rest := fun hmem =>
      absurd (hc.symm.trans (bestCandidate_eq_none.1 hbest j hmem q hq)) nofun
    unfold bestCandidate at h
    rcases List.mem_cons.1 hj with rfl | hmem
    · simp only [hq, if_pos hc] at h
      split at h
      · cases h
        exact Nat.le_refl _
      · split at h
        · cases h
          exact Nat.le_refl _
        · rename_i hgt
          cases h
          exact Nat.le_of_not_le hgt
    · split at h
      · exact ih h hmem
      · split at h
        · split at h
          · rename_i hnone
            exact absurd hmem (hrest hnone)
          · rename_i hbest
            split at h
            · rename_i hle
              cases h
              exact (ih hbest hmem).trans hle
            · cases h
              exact ih hbest hmem
        · exact ih h hmem

theorem resolve_of_usable {table : Vector (Option Record) 48} {a : Address} (h : 0x07 < a.toNat ∧ a.toNat < 0x78) :
    resolve table a = bestCandidate table a (List.finRange 48) := by
  refine if_neg fun hres => ?_
  have := reservedAddress_iff.1 hres
  omega

theorem resolve_eq_none_iff {a : Address} : resolve s.table a = none ↔
    a.toNat ≤ 0x07 ∨ 0x78 ≤ a.toNat ∨
      ∀ i r, s.record i = some r → (r.state = .live ∨ r.state = .quiesced) → inAddressSet r.address r.mask a = false := by
  by_cases hres : a.toNat ≤ 0x07 ∨ 0x78 ≤ a.toNat
  · rw [resolve, if_pos (reservedAddress_iff.2 hres), ← or_assoc]
    exact iff_of_true rfl (Or.inl hres)
  · rw [resolve_of_usable (by omega), bestCandidate_eq_none, ← or_assoc, or_iff_right hres]
    refine ⟨fun h i r hr hstate => ?_, fun h i _ r hr => ?_⟩
    · rw [← Bool.not_eq_true]
      exact fun hin => absurd ((h i (List.mem_finRange i) r hr).symm.trans (isCandidate_iff.2 ⟨hstate, hin⟩)) nofun
    · rw [← Bool.not_eq_true, isCandidate_iff]
      rintro ⟨hstate, hin⟩
      exact absurd ((h i r hr hstate).symm.trans hin) nofun

/-- Settles O33: the maximum is strict, since two records that share the address have different specificities. -/
theorem theMostSpecificCandidateResolves : Obligations.TheMostSpecificCandidateResolves := by
  refine fun s a hoverlap => ⟨fun i r => ⟨fun h => ?_, fun ⟨hlow, hhigh, hr, hstate, hin, hmax⟩ => ?_⟩, resolve_eq_none_iff⟩
  · obtain ⟨hres, hr, hstate, hin⟩ := resolve_eq_some h
    have husable : 0x07 < a.toNat ∧ a.toNat < 0x78 := by
      have := mt reservedAddress_iff.2 (Bool.not_eq_true _ ▸ hres)
      omega
    rw [resolve_of_usable husable] at h
    refine ⟨husable.1, husable.2, hr, hstate, hin, fun j q hq hqstate hqin hne => ?_⟩
    refine Nat.lt_of_le_of_ne
      (specificity_le_of_bestCandidate h (List.mem_finRange j) hq (isCandidate_iff.2 ⟨hqstate, hqin⟩)) fun hsame => ?_
    exact absurd ((hoverlap j i q r hq hr hne hsame).symm.trans (setsIntersect_of_common hqin hin)) nofun
  · cases hbest : resolve s.table a with
    | none =>
      rcases resolve_eq_none_iff.1 hbest with hres | hres | hnone
      · omega
      · omega
      · exact absurd ((hnone i r hr hstate).symm.trans hin) nofun
    | some best =>
      obtain ⟨j, q⟩ := best
      obtain ⟨-, hq, hqstate, hqin⟩ := resolve_eq_some hbest
      rw [resolve_of_usable ⟨hlow, hhigh⟩] at hbest
      have hle := specificity_le_of_bestCandidate hbest (List.mem_finRange i) hr (isCandidate_iff.2 ⟨hstate, hin⟩)
      by_cases hji : j = i
      · subst hji
        obtain rfl : q = r := Option.some.inj (hq.symm.trans hr)
        rfl
      · exact absurd (hmax j q hq hqstate hqin hji) (Nat.not_lt.2 hle)

/-! ## The freshness count (R152, R155) -/

theorem Record.counting_iff : r.counting = true ↔ r.state = .live ∧ r.interval ≠ 0 ∧ r.remaining ≠ 0 := by
  simp [Record.counting, and_assoc]

theorem Record.expiring_iff : r.expiring = true ↔
    r.state = .live ∧ r.interval ≠ 0 ∧ r.stale = false ∧ (r.remaining = 0 ∨ r.remaining = 1) := by
  simp [Record.expiring, and_assoc]

theorem State.freshnessTick_of_record (hr : s.record i = some r) : s.freshnessTick i.val =
    if r.counting then
      if r.remaining = 1 then s.expire i r else s.setRecord i (some { r with remaining := r.remaining - 1 })
    else s := by
  simp only [State.freshnessTick, dif_pos i.isLt, Fin.eta, hr]

theorem State.freshnessExpiry_of_record (hr : s.record i = some r) :
    s.freshnessExpiry i.val = if r.expiring then s.expire i r else s := by
  simp only [State.freshnessExpiry, dif_pos i.isLt, Fin.eta, hr]

/-- Where no record counts, neither event changes anything. -/
theorem State.freshness_of_none {n : Nat} (h : ∀ i : Slot, i.val = n → ∀ r, s.record i = some r →
    r.counting = false ∧ r.expiring = false) : s.freshnessTick n = s ∧ s.freshnessExpiry n = s := by
  by_cases hn : n < 48
  · cases hr : s.record ⟨n, hn⟩ with
    | none => exact ⟨by simp only [State.freshnessTick, dif_pos hn, hr], by simp only [State.freshnessExpiry, dif_pos hn, hr]⟩
    | some r =>
      obtain ⟨hcount, hexpire⟩ := h ⟨n, hn⟩ rfl r hr
      refine ⟨(State.freshnessTick_of_record hr).trans (if_neg ?_), (State.freshnessExpiry_of_record hr).trans (if_neg ?_)⟩
      · rw [hcount]
        decide
      · rw [hexpire]
        decide
  · exact ⟨dif_neg hn, dif_neg hn⟩

theorem exec_freshness_of_none {n : Nat} (h : s.hardReset = false) (hnone : ∀ i : Slot, i.val = n → ∀ r,
    s.record i = some r → r.counting = false ∧ r.expiring = false) :
    exec (.freshnessTick n) s = .next s ∧ exec (.freshnessExpiry n) s = .next s :=
  ⟨(exec_running h _).trans (congrArg _ (State.freshness_of_none hnone).1),
    (exec_running h _).trans (congrArg _ (State.freshness_of_none hnone).2)⟩

/-- Settles O50: a tick and an expiry by whether the record counts, and whether its last unit runs. -/
theorem theFreshnessCountRunsDownInLive : Obligations.TheFreshnessCountRunsDownInLive := by
  refine ⟨?runs, fun s i r h hr hzero hstale => exec_freshness_of_none h ?_, fun s n h hstopped =>
    exec_freshness_of_none h fun i hi r hr => ?_⟩
  case runs =>
    rintro s i r q h hr hlive hinterval hremaining rfl
    have hcount : r.counting = true := Record.counting_iff.2 ⟨hlive, hinterval, hremaining⟩
    have htick := (exec_running h (.freshnessTick i.val)).trans
      (congrArg _ ((State.freshnessTick_of_record hr).trans (if_pos hcount)))
    refine ⟨fun hmore => htick.trans (congrArg _ (if_neg hmore)), fun hlast hfresh => ?_⟩
    have hexpiry : exec (.freshnessExpiry i.val) s = .next (s.expire i r) :=
      (exec_running h (.freshnessExpiry i.val)).trans (congrArg _ ((State.freshnessExpiry_of_record hr).trans
        (if_pos (Record.expiring_iff.2 ⟨hlive, hinterval, hfresh, Or.inr hlast⟩))))
    refine ⟨(htick.trans (congrArg _ (if_pos hlast))).trans hexpiry.symm, hexpiry.trans ?_⟩
    rw [State.expire, State.raise, NoticeQueue.raise_eq]
    rfl
  · rintro j hj q hq
    obtain rfl : j = i := Fin.ext hj
    obtain rfl : q = r := Option.some.inj (hq.symm.trans hr)
    rw [← Bool.not_eq_true, ← Bool.not_eq_true, Record.counting_iff, Record.expiring_iff]
    refine ⟨fun ⟨_, _, hmore⟩ => hmore hzero, fun ⟨_, _, hfresh, _⟩ => ?_⟩
    exact absurd (hfresh.symm.trans hstale) nofun
  · rw [← Bool.not_eq_true, ← Bool.not_eq_true, Record.counting_iff, Record.expiring_iff]
    have hstop := hstopped i hi r hr
    exact ⟨fun ⟨hlive, hinterval, _⟩ => hstop.elim (fun hn => hn hlive) hinterval,
      fun ⟨hlive, hinterval, _⟩ => hstop.elim (fun hn => hn hlive) hinterval⟩

/-! ## The state after a hardware reset -/

/-- Settles O51: no slot holds a record, every pool is full, and the engine rests. -/
theorem theLawsHoldAtReset : Obligations.TheLawsHoldAtReset := by
  have hengine : EngineLaw State.reset ∧ LineLaw State.reset := engineLaws_iff.2 Engine.reset_lawful
  have hnone (i : Slot) (r : Record) : State.reset.record i ≠ some r := by
    rw [State.record_reset]
    exact nofun
  have hblocks (i : Slot) : State.reset.blocksOf i = [] := by rw [State.blocksOf_eq, State.record_reset]; rfl
  have hqueues (i : Slot) : State.reset.queueOf i = [] := by rw [State.queueOf_eq, State.record_reset]; rfl
  refine ⟨hengine.1, hengine.2, ⟨by decide, by decide, rfl, by decide⟩, rfl, Owned.all_free hblocks,
    ⟨by decide, nofun⟩, fun i r hr => absurd hr (hnone i r), fun i j r q hr => absurd hr (hnone i r),
    ⟨nofun, fun i r hr => absurd hr (hnone i r)⟩, Owned.all_free hqueues, nofun, linkLaw_of_cleared rfl, nofun,
    fun i r hr => absurd hr (hnone i r), ⟨fun k => ?_, fun i k hk => ?_⟩, fun i r m hr => absurd hr (hnone i r)⟩
  · rw [State.buffer, State.reset, Vector.getElem_replicate]
    rfl
  · rw [hqueues] at hk
    cases hk

end Sys2Proof.Machine
